-- ==== Sys2Proof/Word.lean ====
section
/-! DEFINITION. The values of the Yooda pulse classifier and frame codec (PCFC). What the spec gives one width is a bit
vector of that width (spec/00_scope.md R6, R7); what it gives a width that is a parameter (`DUR_W`, `R_W`) is a
natural number, and the configuration says how many bits of it a port or a register holds: a duration in microseconds
(`DUR_W` bits, R6), a repeat count (`R_W`, R6), and the words of the ports: a token `{kind, level, dur}` (`DUR_W + 2`, R88), a
request `{rep, cmd, roller, pilot}` (`34 + R_W`, R93), an element `{last, gap, level, dur}` (`DUR_W + 3`, R92), and the operands
`{h, l}` of a classifier function (`2 * DUR_W`, R97). Every value is unsigned (R7). -/

namespace Sys2Proof

/-- The 40-bit frame word `{pilot[39:12], roller[11:8], command byte[7:0]}` (R80). -/
abbrev Code40 := BitVec 40

/-- `PILOT_W = 28` bits (R6). -/
abbrev PilotId := BitVec 28

/-- `ROLLER_W = 4` bits (R6). -/
abbrev RollerId := BitVec 4

/-- `CMD_W = 8` bits (R6). -/
abbrev CmdByte := BitVec 8

/-- Decoder result word, 52 bits (R94). -/
abbrev ResultWord := BitVec 52

/-- R7: `v[lo+n-1:lo]`, the unsigned value of `n` bits of `v` from bit `lo` up. -/
def bitField (v lo n : Nat) : Nat := v / 2 ^ lo % 2 ^ n

end Sys2Proof
end

