-- ==== Sys2Proof/Config.lean ====
section
/-! DEFINITION. The elaboration-time parameters of the block (spec/00_scope.md R6; spec/10_state.md R20–R23): two
widths, six nominal durations, six closed windows and the gap duration, with the values R6 and R21 give them. -/

namespace Sys2Proof

/-- A tolerance window `(min, max)`: a closed inclusive interval of durations (R10, R20). -/
structure Window where
  min : Nat
  max : Nat
deriving DecidableEq, Repr

/-- The configuration record `cfg` (R20) with the two width parameters (R6), fields named as the spec names them. -/
structure Cfg where
  DUR_W : Nat
  R_W : Nat
  SYH_NOM : Nat
  SYL_NOM : Nat
  B0H_NOM : Nat
  B0L_NOM : Nat
  B1H_NOM : Nat
  B1L_NOM : Nat
  SYH : Window
  SYL : Window
  B0H : Window
  B0L : Window
  B1H : Window
  B1L : Window
  GAP_US : Nat
deriving DecidableEq, Repr

/-- The six windows (R20). -/
def Cfg.windows (c : Cfg) : List Window := [c.SYH, c.SYL, c.B0H, c.B0L, c.B1H, c.B1L]

/-- The six nominal durations (R20). -/
def Cfg.nominals (c : Cfg) : List Nat := [c.SYH_NOM, c.SYL_NOM, c.B0H_NOM, c.B0L_NOM, c.B1H_NOM, c.B1L_NOM]

/-- The duration is one that `DUR_W` bits can hold. -/
def Cfg.fitsDur (c : Cfg) (d : Nat) : Bool := decide (d < 2 ^ c.DUR_W)

/-- The repeat count is one that `R_W` bits can hold. -/
def Cfg.fitsRep (c : Cfg) (n : Nat) : Bool := decide (n < 2 ^ c.R_W)

/-! ## The values of R6 -/

/-- `DUR_W`: 16 (R6, decision D3). -/
def Config.DUR_W : Nat := 16

/-- `R_W`: 8 (R6, decision D18). -/
def Config.R_W : Nat := 8

/-- `TOL_PCT`: the percentage from which the default windows are derived (R6, R21, decision D6). -/
def Config.TOL_PCT : Nat := 25

/-- `GAP_US`, the inter-repeat gap duration: OPEN in the spec, "no default" (R21, decision D8); `DUR_W` bits (R20).
A free value: it has no body, so no claim can rest on what it is. Log entry 1. -/
opaque Config.gapUs : BitVec Config.DUR_W

end Sys2Proof
end

