-- ==== Sys2Proof/Syntax.lean ====
section
/-! DEFINITION. The block's "instruction set": its input transactions and internal combinational functions
(spec/30_encoding.md R97, spec/opcode_table.json), with the words of the ports that carry them. -/

namespace Sys2Proof

/-- A pulse level (R10). Its port code is `Level.code` (R87). -/
inductive Level where
  | low
  | high
deriving DecidableEq, Repr

/-- `Command = { Up, Down, Stop, Unknown }` (R10). Its 2-bit code is `Command.code` (R90). -/
inductive Command where
  | unknown
  | up
  | down
  | stop
deriving DecidableEq, Repr

/-- The transactions of R97, one constructor for each row of spec/opcode_table.json. -/
inductive Instr where
  /-- `DEC_PULSE` (R170): a PULSE token is offered to the decoder. -/
  | decPulse (level : Level) (dur : Nat)
  /-- `DEC_END` (R171): an END token closes the current burst; its other bits are ignored (R89). -/
  | decEnd
  /-- `ENC_REQ` (R246): an encoding request is offered. -/
  | encReq (pilot : PilotId) (roller : RollerId) (cmd : Command) (rep : Nat)
  /-- `ENC_ACK` (R247): the transmitter holds `out_ready` at 1. -/
  | encAck
  /-- `RESET` (R340): `rst` is 1 at the clock edge. -/
  | reset
  /-- `CLASSIFY_BIT` (R140), internal. -/
  | classifyBit (h l : Nat)
  /-- `CLASSIFY_SYNC` (R141), internal. -/
  | classifySync (h l : Nat)
  /-- `CMD_FROM_BYTE` (R220), internal. -/
  | cmdFromByte (b : CmdByte)
  /-- `BYTE_FROM_CMD` (R221), internal. -/
  | byteFromCmd (c : Command)
deriving DecidableEq, Repr

/-- The operand word of one internal combinational function, in the bit layout of the transaction table (R97). -/
inductive FnCall where
  | classifyBit (w : Nat)
  | classifySync (w : Nat)
  | cmdFromByte (w : BitVec 8)
  | byteFromCmd (w : BitVec 2)
deriving DecidableEq, Repr

/-- A word together with the port it stands on (R96, R97). There is no instruction stream (R24): the port is what
tells, say, an `out_ready` of 1 from an `rst` of 1, which are the same bit. -/
inductive PortWord where
  /-- `{in_kind, in_level, in_dur}` while `in_valid = 1`. -/
  | token (w : Nat)
  /-- `{req_rep, req_cmd, req_roller, req_pilot}` while `req_valid = 1`. -/
  | request (w : Nat)
  /-- The `out_ready` line. -/
  | outReady (w : BitVec 1)
  /-- The `rst` line. -/
  | rst (w : BitVec 1)
  /-- The operands of an internal function. -/
  | call (f : FnCall)
deriving DecidableEq, Repr

end Sys2Proof
end

