-- ==== Sys2Proof/Machine/TimingModel.lean ====
section
/-! DEFINITION. The timing model (spec/40_timing_model.md): the window comparator, the formula that derives a window
from a nominal duration, the table of nominal durations, the default configuration (spec/10_state.md R21), and the
parts W1 and W2 of a well formed one (R22). -/

namespace Sys2Proof

namespace Machine

/-- R120: `accept(d, w)`, both comparisons unsigned and inclusive. -/
def accept (d : Nat) (w : Window) : Bool := decide (w.min ≤ d) && decide (d ≤ w.max)

/-- R121: each half lies in its own window. -/
def acceptPair (h l : Nat) (wh wl : Window) : Bool := accept h wh && accept l wl

/-- R122: the window of `pct` percent around a nominal duration, clamped to `0 .. 2^DUR_W - 1`. -/
def toleranceWindow (durW : Nat) (pct : Nat) (nom : Nat) : Window where
  min := nom - nom * pct / 100
  max := Nat.min (2 ^ durW - 1) (nom + nom * pct / 100)

/-- The symbols of R84. -/
inductive Sym where
  | sync
  | bit0
  | bit1
deriving DecidableEq, Repr

/-- R84: the symbol that carries a bit. -/
def Sym.ofBit (b : Bool) : Sym := if b then .bit1 else .bit0

/-- R124: `nominal(sym, H)` for level High and `nominal(sym, L)` for level Low. -/
def nominal (c : Cfg) : Sym → Level → Nat
  | .sync, .high => c.SYH_NOM
  | .sync, .low => c.SYL_NOM
  | .bit0, .high => c.B0H_NOM
  | .bit0, .low => c.B0L_NOM
  | .bit1, .high => c.B1H_NOM
  | .bit1, .low => c.B1L_NOM

/-- R22 W1: every window has `min <= max`. -/
def windowsOrdered (c : Cfg) : Bool := c.windows.all fun w => decide (w.min ≤ w.max)

/-- R22 W2: "every constant is below `2^DUR_W`". -/
def constantsFit (c : Cfg) : Bool :=
  (c.GAP_US :: c.nominals ++ c.windows.flatMap fun w => [w.min, w.max]).all c.fitsDur

end Machine

/-! ## The default configuration (R21) -/

/-- The configuration with given widths, nominal durations and gap, its windows derived from a percentage (R122). -/
def Config.derived (durW repW pct : Nat) (syh syl b0h b0l b1h b1l gap : Nat) : Cfg where
  DUR_W := durW
  R_W := repW
  SYH_NOM := syh
  SYL_NOM := syl
  B0H_NOM := b0h
  B0L_NOM := b0l
  B1H_NOM := b1h
  B1L_NOM := b1l
  SYH := Machine.toleranceWindow durW pct syh
  SYL := Machine.toleranceWindow durW pct syl
  B0H := Machine.toleranceWindow durW pct b0h
  B0L := Machine.toleranceWindow durW pct b0l
  B1H := Machine.toleranceWindow durW pct b1h
  B1L := Machine.toleranceWindow durW pct b1l
  GAP_US := gap

/-- R21: the default configuration, for a given gap duration: the source's nominal durations with windows of
`TOL_PCT` percent, and the widths of R6. -/
def Config.withGap (gap : BitVec Config.DUR_W) : Cfg :=
  Config.derived Config.DUR_W Config.R_W Config.TOL_PCT 4760 1520 320 760 720 360 gap.toNat

/-- The configuration that `State.reset` is elaborated with: R21's defaults and the open `GAP_US`. Any other is a
`State` like it with another `cfg` (log entry 2). -/
def Config.cfg : Cfg := Config.withGap Config.gapUs

end Sys2Proof
end

