-- ==== Sys2Proof/Decode.lean ====
section
/-! DEFINITION. Decoding the words of the ports into transactions, and encoding them back
(spec/30_encoding.md R87–R90, R93, R97; spec/opcode_table.json), at the widths of a configuration. Decoding is total on
every port word; it rejects by name the two lines that are 0, on which nothing happens. A port has only the bits of its
width (R96): bits of the number above them are never looked at. -/

namespace Sys2Proof

/-! ## Codes of the enumerations -/

/-- R87: `1` is High, `0` is Low. -/
def Level.code : Level → BitVec 1
  | .low => 0
  | .high => 1

/-- R87, the other way. -/
def Level.ofCode (c : BitVec 1) : Level := if c = 1 then .high else .low

/-- R90: `0` = `Unknown`, `1` = `Up`, `2` = `Down`, `3` = `Stop`. -/
def Command.code : Command → BitVec 2
  | .unknown => 0
  | .up => 1
  | .down => 2
  | .stop => 3

/-- R90, the other way: all four codes are commands. -/
def Command.ofCode (c : BitVec 2) : Command :=
  if c = 1 then .up else if c = 2 then .down else if c = 3 then .stop else .unknown

/-! ## Decoding -/

/-- Why a port word is no transaction. -/
inductive Reject where
  /-- `out_ready = 0`: no handshake is offered (R247 needs `out_ready = 1`). -/
  | noHandshake
  /-- `rst = 0`: no reset (R340 needs `rst = 1`). -/
  | notInReset
deriving DecidableEq, Repr

/-- R88: the `kind` bit `DUR_W+1`: 1 = END, 0 = PULSE. -/
def isEnd (c : Cfg) (w : Nat) : Bool := w.testBit (c.DUR_W + 1)

/-- R88, R97: "A decoder token is decoded by its bit `DUR_W+1` alone"; an END's other bits are ignored (R89). -/
def decodeToken (c : Cfg) (w : Nat) : Instr :=
  if isEnd c w then .decEnd
  else .decPulse (Level.ofCode (BitVec.ofNat 1 (bitField w c.DUR_W 1))) (bitField w 0 c.DUR_W)

/-- R93: `rep` from bit 34 up, `cmd` 33:32, `roller` 31:28, `pilot` 27:0. -/
def decodeRequest (c : Cfg) (w : Nat) : Instr :=
  .encReq (BitVec.ofNat 28 (bitField w 0 28)) (BitVec.ofNat 4 (bitField w 28 4))
    (Command.ofCode (BitVec.ofNat 2 (bitField w 32 2))) (bitField w 34 c.R_W)

/-- R97: the operand words of the internal functions; of a pair word, `h` is the upper half and `l` the lower. -/
def decodeCall (c : Cfg) : FnCall → Instr
  | .classifyBit w => .classifyBit (bitField w c.DUR_W c.DUR_W) (bitField w 0 c.DUR_W)
  | .classifySync w => .classifySync (bitField w c.DUR_W c.DUR_W) (bitField w 0 c.DUR_W)
  | .cmdFromByte w => .cmdFromByte w
  | .byteFromCmd w => .byteFromCmd (Command.ofCode w)

/-- The transaction a port word stands for (R97). -/
def decode (c : Cfg) : PortWord → Except Reject Instr
  | .token w => .ok (decodeToken c w)
  | .request w => .ok (decodeRequest c w)
  | .outReady w => if w = 1 then .ok .encAck else .error .noHandshake
  | .rst w => if w = 1 then .ok .reset else .error .notInReset
  | .call f => .ok (decodeCall c f)

/-! ## Encoding -/

/-- R88, R100: `(0 << DUR_W+1) | (lvl << DUR_W) | d`; the fields do not overlap. -/
def encodePulse (c : Cfg) (lv : Level) (d : Nat) : Nat := lv.code.toNat * 2 ^ c.DUR_W + d

/-- R89, R100: an END token with its ignored bits driven 0; `0x20000` for 16-bit durations. -/
def encodeEnd (c : Cfg) : Nat := 2 ^ (c.DUR_W + 1)

/-- R93, R100: `(n << 34) | (code(c) << 32) | (r << 28) | p`; the fields do not overlap. -/
def encodeRequest (p : PilotId) (r : RollerId) (cmd : Command) (n : Nat) : Nat :=
  n * 2 ^ 34 + cmd.code.toNat * 2 ^ 32 + r.toNat * 2 ^ 28 + p.toNat

/-- R97: `{h, l}`. -/
def encodePair (c : Cfg) (h l : Nat) : Nat := h * 2 ^ c.DUR_W + l

/-- The port word of a transaction whose operands fit their ports. -/
def encode (c : Cfg) : Instr → PortWord
  | .decPulse lv d => .token (encodePulse c lv d)
  | .decEnd => .token (encodeEnd c)
  | .encReq p r cmd n => .request (encodeRequest p r cmd n)
  | .encAck => .outReady 1
  | .reset => .rst 1
  | .classifyBit h l => .call (.classifyBit (encodePair c h l))
  | .classifySync h l => .call (.classifySync (encodePair c h l))
  | .cmdFromByte b => .call (.cmdFromByte b)
  | .byteFromCmd cmd => .call (.byteFromCmd cmd.code)

/-! ## The transaction table as data -/

/-- A row of spec/opcode_table.json, which is spelled for `DUR_W = 16` and `R_W = 8` (R97): its width, and the mask and pattern that tell it from its port's other rows. -/
structure TableRow where
  width : Nat
  mask  : Nat
  pat   : Nat
deriving DecidableEq, Repr

/-- The row of each transaction. -/
def tableRow : Instr → TableRow
  | .decPulse _ _ => ⟨18, 0x20000, 0x00000⟩
  | .decEnd => ⟨18, 0x20000, 0x20000⟩
  | .encReq _ _ _ _ => ⟨42, 0, 0⟩
  | .encAck => ⟨1, 1, 1⟩
  | .reset => ⟨1, 1, 1⟩
  | .classifyBit _ _ => ⟨32, 0, 0⟩
  | .classifySync _ _ => ⟨32, 0, 0⟩
  | .cmdFromByte _ => ⟨8, 0, 0⟩
  | .byteFromCmd _ => ⟨2, 0, 0⟩

/-- The width of the port a word stands on (R96). -/
def PortWord.width (c : Cfg) : PortWord → Nat
  | .token _ => c.DUR_W + 2
  | .request _ => 34 + c.R_W
  | .outReady _ => 1
  | .rst _ => 1
  | .call (.classifyBit _) => 2 * c.DUR_W
  | .call (.classifySync _) => 2 * c.DUR_W
  | .call (.cmdFromByte _) => 8
  | .call (.byteFromCmd _) => 2

/-- The bits of a port word as a number, bit 0 the least significant (R7). -/
def PortWord.bits : PortWord → Nat
  | .token w => w
  | .request w => w
  | .outReady w => w.toNat
  | .rst w => w.toNat
  | .call (.classifyBit w) => w
  | .call (.classifySync w) => w
  | .call (.cmdFromByte w) => w.toNat
  | .call (.byteFromCmd w) => w.toNat

/-- The word has no bit that its port lacks. -/
def PortWord.onPort (c : Cfg) (w : PortWord) : Bool := decide (w.bits < 2 ^ w.width c)

/-- A word fits a row: same width, no bit beyond it, and the pattern under the mask. -/
def TableRow.fits (t : TableRow) (w : PortWord) : Bool :=
  t.width == w.width Config.cfg && w.onPort Config.cfg && (w.bits &&& t.mask) == t.pat

/-- The port word a bare table word stands for. DESIGN CHOICE (log entry 3): the table names no port, so a number
alone cannot tell `ENC_ACK` from `RESET`, `CLASSIFY_BIT` from `CLASSIFY_SYNC`, or a small byte from a command code.
Of the rows that have `nbits` bits (in whole bytes, or exactly), the narrowest that holds the word is taken, and of two
equally narrow ones the first of the table. Every row is reached by name through `PortWord`. -/
def tableWord (nbits w : Nat) : Option PortWord :=
  if nbits = 24 ∨ nbits = 18 then
    if w < 2 ^ 18 then some (.token w) else none
  else if nbits = 48 ∨ nbits = 42 then
    if w < 2 ^ 42 then some (.request w) else none
  else if nbits = 32 then
    if w < 2 ^ 32 then some (.call (.classifyBit w)) else none
  else if nbits = 1 then
    if w = 1 then some (.outReady 1) else none
  else if nbits = 2 then
    if w < 4 then some (.call (.byteFromCmd (BitVec.ofNat 2 w))) else none
  else if nbits = 8 then
    if w = 1 then some (.outReady 1)
    else if w < 4 then some (.call (.byteFromCmd (BitVec.ofNat 2 w)))
    else if w < 256 then some (.call (.cmdFromByte (BitVec.ofNat 8 w)))
    else none
  else none

/-- The instruction the decoder reads, at the table's widths, from a word of the transaction table (`none` where it
refuses). -/
def decodeTableWord (nbits w : Nat) : Option Instr :=
  match tableWord nbits w with
  | some pw =>
    match decode Config.cfg pw with
    | .ok i => some i
    | .error _ => none
  | none => none

end Sys2Proof
end

