-- ==== Sys2Proof/Machine/State.lean ====
section
/-! DEFINITION. The state of the block (spec/10_state.md): the decoder's registers (R25, R41), the encoder's registers
(R33, R41), the configuration it is elaborated with (R20), the input still to come at the ports (R96), and the output
of the internal function last evaluated.
Registers bear the spec's own names. An enumerated register has one constructor for every code its width can hold;
the codes the spec says are never written (R30, R34, R42) are named `code<n>`, and a step from one faults (R314). -/

namespace Sys2Proof.Machine

/-! ## Enumerated registers -/

/-- `d_phase`, 1 bit: `COLLECT` = 0, `DRAIN` = 1 (R25, R26). -/
inductive Phase where
  | collect
  | drain
deriving DecidableEq, Repr

/-- `d_err`, 2 bits: `NONE` = 0, `SYNC` = 1, `BIT` = 2; "Value 3 is never written" (R25, R30). -/
inductive DErr where
  | none
  | sync
  | bit
  | code3
deriving DecidableEq, Repr

/-- `e_state`, 3 bits: the element being offered; "Values 6 and 7 are never written" (R33, R34). -/
inductive EState where
  | idle
  | syncH
  | syncL
  | bitH
  | bitL
  | gap
  | code6
  | code7
deriving DecidableEq, Repr

/-- `res_kind`, 3 bits; "5..7 never written" (R42, R94). -/
inductive ResKind where
  | none
  | ok
  | tooShort
  | syncMismatch
  | bitError
  | code5
  | code6
  | code7
deriving DecidableEq, Repr

/-- `enc_code`, 2 bits: how the last request ended (R44, R95). -/
inductive EncCode where
  | none
  | ok
  | unknownCommand
  | badRepeat
deriving DecidableEq, Repr

/-! ## The two agents -/

/-- The decoder agent: working registers (R25), then the result registers it alone writes (R41). -/
structure Decoder where
  /-- Whether the current burst still needs pulses (R26). -/
  d_phase : Phase
  /-- Index of the next pulse within the burst (R27). -/
  d_cnt : BitVec 7
  /-- Duration of the high pulse of the current pair (R28). -/
  d_hi : Nat
  /-- The Code40 accumulator (R29). -/
  d_acc : Code40
  /-- First error seen in this burst (R30). -/
  d_err : DErr
  /-- Bit index of the first invalid bit pair (R31). -/
  d_eidx : BitVec 6
  /-- A pulse of this burst had an unexpected level (R32). -/
  d_lvl : Bool
  /-- Result strobe (R41, R43). -/
  res_valid : Bool
  /-- Kind of the last published result (R42). -/
  res_kind : ResKind
  /-- Failing bit index of the last result (R42). -/
  res_idx : BitVec 6
  /-- Pilot id of the last result (R42). -/
  res_pilot : PilotId
  /-- Roller id of the last result (R42). -/
  res_roller : RollerId
  /-- Raw command byte of the last result (R42). -/
  res_cbyte : CmdByte
  /-- Mapped command of the last result (R42). -/
  res_cmd : Command
  /-- A level violation in the burst of the last result (R168). -/
  res_lvlerr : Bool
deriving DecidableEq, Repr

/-- The encoder agent (R33), with the two status registers it alone writes (R41). -/
structure Encoder where
  /-- Which element is being offered (R34). -/
  e_state : EState
  /-- Code40 being transmitted (R35). -/
  e_code : Code40
  /-- Index of the bit pair being offered (R36). -/
  e_bit : BitVec 6
  /-- Repetitions left, counting the current one (R37). -/
  e_rep : Nat
  /-- Encoding-ended strobe (R44). -/
  enc_done : Bool
  /-- How the last request ended (R44). -/
  enc_code : EncCode
deriving DecidableEq, Repr

/-! ## The ports, and what the host is yet to do at them -/

/-- The input ports of R96 in one clock cycle. A word whose valid line is 0 is not sampled. -/
structure Ports where
  rst : Bool
  in_valid : Bool
  in_word : Nat
  req_valid : Bool
  req_word : Nat
  out_ready : Bool
deriving DecidableEq, Repr

/-- The `NOP` cycle of R100: no valid input. -/
def Ports.idle : Ports := ⟨false, false, 0, false, 0, false⟩

/-- One thing the outside does to the block. -/
inductive Stimulus where
  /-- One clock cycle with these inputs. -/
  | cycle (p : Ports)
  /-- An internal combinational function is evaluated on these operands, between clock edges.
  DESIGN CHOICE (log entry 4): on the chip these functions run only inside a cycle; the table lists them as rows. -/
  | evaluate (f : FnCall)
deriving DecidableEq, Repr

/-- `BitValue`, the result of `classify_bit` (R91, R140). Its 2-bit code is `BitValue.code`. -/
inductive BitValue where
  | invalid
  | bit0
  | bit1
deriving DecidableEq, Repr

/-- The source's `EncodeError` and the spec's own `BadRepeat` (R242, R301). -/
inductive EncodeError where
  | unknownCommand
  | badRepeat
deriving DecidableEq, Repr

/-- The output of an internal function. -/
inductive FnOut where
  | none
  | bitValue (b : BitValue)
  | isSync (b : Bool)
  | command (c : Command)
  | byte (b : CmdByte)
  | byteError (e : EncodeError)
deriving DecidableEq, Repr

/-- Everything the spec gives the machine (R24, R25, R33, R41), beside its configuration and two fields of the model's
own. -/
structure State where
  dec : Decoder
  enc : Encoder
  /-- The configuration (R6, R20). It is no register: it is held here so that one `step` serves every configuration,
  no step writes it (R23) and reset leaves it alone (R47). DESIGN CHOICE (log entry 2). -/
  cfg : Cfg
  /-- The model's own: the inputs still to come, the next one first; empty means every valid line stays 0.
  DESIGN CHOICE (log entry 5). -/
  pending : List Stimulus
  /-- The model's own: the output of the internal function last evaluated. No register of the block holds it
  (R91, R144). DESIGN CHOICE (log entry 4). -/
  fn_out : FnOut
deriving DecidableEq, Repr

/-! ## How a step can stop -/

/-- The fault points of R314; "A model treats the first two as faults, never as values". All are SAFE: the block
reaches none of them from reset, and the model stops where it would go on. -/
inductive Fault where
  /-- `d_err` holds 3 (R30). Raised by every decoder transaction, every evaluation of an internal function and every
  cycle without reset. Safe. -/
  | decoderError
  /-- `d_cnt` is above 81 (R27). Raised like `decoderError`. Safe. -/
  | decoderCount
  /-- `d_eidx` is above 39 (R25, 93 U5). Raised like `decoderError`. Safe. -/
  | decoderErrorIndex
  /-- `res_kind` holds 5, 6 or 7 (R42, 93 U9). Raised like `decoderError`. Safe. -/
  | resultKind
  /-- No run from reset leads to the decoder's registers (R48). Raised like `decoderError`. Safe. -/
  | decoderUnreached
  /-- `e_state` holds 6 or 7 (R34). Raised by every encoder transaction, every evaluation of an internal
  function and every cycle without reset. Safe. -/
  | encoderState
  /-- `e_bit` is above 39 (R33). Raised like `encoderState`. Safe. -/
  | encoderBit
  /-- No run from reset leads to the encoder's registers (R48). Raised like `encoderState`. Safe. -/
  | encoderUnreached
deriving DecidableEq, Repr

/-- Why an instruction is refused. -/
inductive Refusal where
  /-- Raised by an arm of `exec` whose instruction has no meaning yet; no arm does. Safe. -/
  | notModelled (mnemonic : String)
deriving DecidableEq, Repr

/-! ## Reset values (R47) -/

/-- The reset column of R25 and, for the result registers, of R41. -/
def Decoder.reset : Decoder where
  d_phase := .collect
  d_cnt := 0
  d_hi := 0
  d_acc := 0
  d_err := .none
  d_eidx := 0
  d_lvl := false
  res_valid := false
  res_kind := .none
  res_idx := 0
  res_pilot := 0
  res_roller := 0
  res_cbyte := 0
  res_cmd := .unknown
  res_lvlerr := false

/-- The reset column of R33 and, for the status registers, of R41. -/
def Encoder.reset : Encoder where
  e_state := .idle
  e_code := 0
  e_bit := 0
  e_rep := 0
  enc_done := false
  enc_code := .none

/-- The machine of configuration `c` right after reset (R47, R341), with nothing to come at its ports. -/
def State.resetWith (c : Cfg) : State where
  dec := Decoder.reset
  enc := Encoder.reset
  cfg := c
  pending := []
  fn_out := .none

/-- The machine of the default configuration (R21) right after reset. -/
def State.reset : State := State.resetWith Config.cfg

end Sys2Proof.Machine
end

