-- ==== Sys2Proof/Machine/CommandMapper.lean ====
section
/-! DEFINITION. The command mapper (spec/43_command_mapper.md): a combinational table in both directions. -/

namespace Sys2Proof.Machine

/-- R220: `command_from_byte(b)`. -/
def commandFromByte (b : CmdByte) : Command :=
  if b = 0x11 then .up else if b = 0x33 then .down else if b = 0x55 then .stop else .unknown

/-- R221: `byte_from_command(c)`. -/
def byteFromCommand : Command → Except EncodeError CmdByte
  | .up => .ok 0x11
  | .down => .ok 0x33
  | .stop => .ok 0x55
  | .unknown => .error .unknownCommand

end Sys2Proof.Machine
end

