-- ==== Sys2Proof/Machine/Operands.lean ====
section
/-! DEFINITION. The fields and bits the transactions work on: Code40 and its three fields (spec/30_encoding.md R80–R82),
the accumulator's shift (spec/42_frame_decoder.md R166), the bit pair being offered (spec/44_frame_encoder.md R251),
and the pairing of pulses by index (spec/20_memory.md R65). -/

namespace Sys2Proof.Machine

/-- R81: `join40(p, r, c) = (zext_40(p) << 12) | (zext_40(r) << 8) | zext_40(c)`. -/
def join40 (p : PilotId) (r : RollerId) (c : CmdByte) : Code40 :=
  (p.setWidth 40 <<< 12) ||| (r.setWidth 40 <<< 8) ||| c.setWidth 40

/-- R82: `code[39:12]`. -/
def pilotOf (code : Code40) : PilotId := code.extractLsb' 12 28

/-- R82: `code[11:8]`. -/
def rollerOf (code : Code40) : RollerId := code.extractLsb' 8 4

/-- R82: `code[7:0]`. -/
def cbyteOf (code : Code40) : CmdByte := code.extractLsb' 0 8

/-- R29, R166: `trunc_40((acc << 1) | bit)`. -/
def shiftIn (acc : Code40) (bit : Bool) : Code40 := (acc <<< 1) ||| (BitVec.ofBool bit).setWidth 40

/-- R63: bit pair `i` carries Code40 bit `39 - i`. -/
def codeBit (code : Code40) (i : Nat) : Bool := code.getLsbD (39 - i)

/-- R170: `d_cnt[0]`: the next pulse is the low half of a pair. -/
def oddIndex (cnt : BitVec 7) : Bool := cnt.getLsbD 0

/-- R65, R170: the level expected of the pulse with index `cnt`: High when even, Low when odd. -/
def expectedLevel (cnt : BitVec 7) : Level := if oddIndex cnt then .low else .high

/-- R166, R170: the bit pair `(cnt - 3) / 2` whose low pulse has index `cnt`. -/
def bitIndexOf (cnt : BitVec 7) : BitVec 6 := ((cnt - 3) >>> 1).setWidth 6

end Sys2Proof.Machine
end

