-- ==== Sys2Proof/Machine/PulseClassifier.lean ====
section
/-! DEFINITION. The pulse classifier (spec/41_pulse_classifier.md): two combinational functions of a high and a low
duration. -/

namespace Sys2Proof.Machine

/-- R140: `classify_bit(h, l)`; the bit-0 windows are tested before the bit-1 windows. -/
def classifyBit (c : Cfg) (h l : Nat) : BitValue :=
  if acceptPair h l c.B0H c.B0L then .bit0
  else if acceptPair h l c.B1H c.B1L then .bit1
  else .invalid

/-- R141: `classify_sync(h, l)`. -/
def classifySync (c : Cfg) (h l : Nat) : Bool := acceptPair h l c.SYH c.SYL

/-- R22 W3: the nominal pairs classify as their own symbols. -/
def nominalsClassify (c : Cfg) : Bool :=
  classifySync c c.SYH_NOM c.SYL_NOM && classifyBit c c.B0H_NOM c.B0L_NOM == .bit0 &&
    classifyBit c c.B1H_NOM c.B1L_NOM == .bit1

end Sys2Proof.Machine

/-- R22: a well formed configuration. Nothing in the block checks it (decision D28). -/
def Sys2Proof.Cfg.wellFormed (c : Sys2Proof.Cfg) : Bool :=
  Sys2Proof.Machine.windowsOrdered c && Sys2Proof.Machine.constantsFit c && Sys2Proof.Machine.nominalsClassify c
end

