-- ==== Sys2Proof/Machine/Reach.lean ====
section
/-! DEFINITION. Which values an agent's registers hold in some run from reset (spec/60_exceptions.md R314 with
spec/10_state.md R48): a step from any other state is a fault. The conditions are read from the rules that write the
registers (spec/42_frame_decoder.md R163–R171; spec/44_frame_encoder.md R246, R247); they depend on the configuration,
since its windows decide which results a pair of pulses can have. DEDUCED (log entry 8). -/

namespace Sys2Proof.Machine

/-! ## Which results a pair of pulses can have -/

/-- A yes-or-no question about a high and a low duration. -/
abbrev PairTest := Nat → Nat → Bool

/-- The pair is a sync (R141). -/
def isSyncPair (c : Cfg) : PairTest := fun h l => classifySync c h l

/-- The pair is none (R164). -/
def isNoSyncPair (c : Cfg) : PairTest := fun h l => !classifySync c h l

/-- The pair classifies as `v` (R140). -/
def isBitPair (c : Cfg) (v : BitValue) : PairTest := fun h l => classifyBit c h l == v

/-- The value of a data bit (R91). -/
def BitValue.ofBool (b : Bool) : BitValue := if b then .bit1 else .bit0

/-- The durations at which a comparator of R120 changes its answer, and 0: every other duration is classified like the
greatest of these that is not above it. -/
def turningPoints (c : Cfg) : List Nat := 0 :: c.windows.flatMap fun w => [w.min, w.max + 1]

/-- Some low duration that the port can carry makes the test true. -/
def someLow (c : Cfg) (test : PairTest) (h : Nat) : Bool := (turningPoints c).any fun l => c.fitsDur l && test h l

/-- Some pair of durations that the port can carry makes the test true. -/
def somePair (c : Cfg) (test : PairTest) : Bool := (turningPoints c).any fun h => c.fitsDur h && someLow c test h

/-- Some `n` valid bit pairs in a row shift the value `acc` into an empty accumulator (R166). -/
def carries (c : Cfg) (n : Nat) (acc : Code40) : Bool :=
  decide (acc.toNat < 2 ^ n) &&
  (somePair c (isBitPair c .bit0) || acc.toNat == 2 ^ n - 1) &&
  (somePair c (isBitPair c .bit1) || acc.toNat == 0)

/-! ## The decoder -/

/-- A burst without an error so far (R164, R166): its sync pair was one; the accumulator holds one bit for each bit pair
completed; and after an odd index `d_hi` still holds the high half of a pair with the result the pair had. -/
def Decoder.cleanBurst (c : Cfg) (r : Decoder) : Bool := decide (
  r.d_eidx = 0 ∧ carries c ((r.d_cnt.toNat - 2) / 2) r.d_acc = true ∧
  (2 ≤ r.d_cnt.toNat → somePair c (isSyncPair c) = true) ∧
  (r.d_cnt = 2 → someLow c (isSyncPair c) r.d_hi = true) ∧
  (2 < r.d_cnt.toNat → r.d_cnt.toNat % 2 = 0 →
    someLow c (isBitPair c (.ofBool (r.d_acc.getLsbD 0))) r.d_hi = true))

/-- A burst whose sync pair failed (R163, R164). -/
def Decoder.syncFailed (c : Cfg) (r : Decoder) : Bool := decide (
  r.d_eidx = 0 ∧ r.d_acc = 0 ∧ 2 ≤ r.d_cnt.toNat ∧ somePair c (isNoSyncPair c) = true ∧
  (r.d_cnt = 2 → someLow c (isNoSyncPair c) r.d_hi = true))

/-- A burst whose bit pair `d_eidx` was invalid, the bits before it in the accumulator (R31, R163, R166). -/
def Decoder.bitFailed (c : Cfg) (r : Decoder) : Bool := decide (
  2 * r.d_eidx.toNat + 4 ≤ r.d_cnt.toNat ∧ carries c r.d_eidx.toNat r.d_acc = true ∧
  somePair c (isSyncPair c) = true ∧ somePair c (isBitPair c .invalid) = true ∧
  (r.d_cnt.toNat = 2 * r.d_eidx.toNat + 4 → someLow c (isBitPair c .invalid) r.d_hi = true))

/-- The working registers of a burst: an empty one is clear (R169, R341), and so are they in `DRAIN` (R27). -/
abbrev Decoder.BurstSound (c : Cfg) (r : Decoder) : Prop :=
  (r.d_phase = .drain → r.d_cnt = 0) ∧
  (r.d_cnt = 0 → r.d_hi = 0 ∧ r.d_acc = 0 ∧ r.d_err = .none ∧ r.d_eidx = 0 ∧ r.d_lvl = false) ∧
  c.fitsDur r.d_hi = true ∧
  (r.d_err = .none → r.cleanBurst c = true) ∧
  (r.d_err = .sync → r.syncFailed c = true) ∧
  (r.d_err = .bit → r.bitFailed c = true)

/-- The kind is one that some burst has (R165): a full burst needs pairs of the results it reports. -/
def Decoder.resultPossible (c : Cfg) (r : Decoder) : Bool :=
  match r.res_kind with
  | .none | .tooShort => true
  | .ok => somePair c (isSyncPair c) && carries c 40 (join40 r.res_pilot r.res_roller r.res_cbyte)
  | .syncMismatch => somePair c (isNoSyncPair c)
  | .bitError =>
    somePair c (isSyncPair c) && somePair c (isBitPair c .invalid) &&
      (r.res_idx == 0 || somePair c (isBitPair c .bit0) || somePair c (isBitPair c .bit1))
  | .code5 | .code6 | .code7 => false

/-- The result registers: the fields a kind leaves 0 and the mapped command (R42, R220), `NONE` only before the first
publication (R42), a full burst published in `DRAIN` (R165), the strobe only in the cycle after a publication (R43), and
only results that some burst has. -/
abbrev Decoder.ResultSound (c : Cfg) (r : Decoder) : Prop :=
  (r.res_kind ≠ .ok → r.res_pilot = 0 ∧ r.res_roller = 0 ∧ r.res_cbyte = 0) ∧
  r.res_cmd = commandFromByte r.res_cbyte ∧
  (r.res_kind ≠ .bitError → r.res_idx = 0) ∧ r.res_idx.toNat ≤ 39 ∧
  (r.res_kind = .none → r.res_lvlerr = false) ∧
  (r.d_phase = .drain → r.res_kind = .ok ∨ r.res_kind = .syncMismatch ∨ r.res_kind = .bitError) ∧
  (r.res_valid = true → r.d_phase = .drain ∨ r.res_kind = .tooShort ∧ r.d_cnt = 0) ∧
  r.resultPossible c = true

/-- The first reason, if any, why the decoder cannot step (R314; 93 U3, U4, U5, U9). -/
def Decoder.check (c : Cfg) (r : Decoder) : Option Fault :=
  if r.d_err = .code3 then some .decoderError
  else if 81 < r.d_cnt.toNat then some .decoderCount
  else if 39 < r.d_eidx.toNat then some .decoderErrorIndex
  else if r.res_kind = .code5 ∨ r.res_kind = .code6 ∨ r.res_kind = .code7 then some .resultKind
  else if decide (r.BurstSound c) && decide (r.ResultSound c) then none
  else some .decoderUnreached

/-! ## The encoder -/

/-- The encoder's registers: `e_bit` and `e_rep` are 0 in `IDLE` and `e_bit` in the sync states (R36, R250); a gap
follows bit pair 39 with a repetition to come (R250); an encoding has one left (R37); Code40 carries a command byte
once a request was accepted, and only then has an encoding ended with `E_OK` (R35, R44, R221); the strobe stands only
in the cycle after an ending (R44). -/
abbrev Encoder.Sound (c : Cfg) (e : Encoder) : Prop :=
  c.fitsRep e.e_rep = true ∧
  (e.e_state = .idle → e.e_bit = 0 ∧ e.e_rep = 0 ∧
    (if e.e_code = 0 then e.enc_code ≠ .ok else e.enc_code ≠ .none ∧ c.fitsRep 1 = true)) ∧
  (e.e_state = .syncH ∨ e.e_state = .syncL → e.e_bit = 0) ∧
  (e.e_state = .gap → e.e_bit = 39 ∧ 1 < e.e_rep) ∧
  (e.e_state ≠ .idle → e.e_rep ≠ 0 ∧ e.e_code ≠ 0) ∧
  (e.e_code ≠ 0 → commandFromByte (cbyteOf e.e_code) ≠ .unknown) ∧
  (e.enc_done = true → e.e_state = .idle ∧ e.enc_code ≠ .none)

/-- The first reason, if any, why the encoder cannot step (R314; 93 U6, U7). -/
def Encoder.check (c : Cfg) (e : Encoder) : Option Fault :=
  if e.e_state = .code6 ∨ e.e_state = .code7 then some .encoderState
  else if 39 < e.e_bit.toNat then some .encoderBit
  else if e.Sound c then none
  else some .encoderUnreached

/-- The first reason, if any, why neither a clock cycle without reset nor an internal function can start here. -/
def State.check (s : State) : Option Fault :=
  match s.dec.check s.cfg with
  | some why => some why
  | none => s.enc.check s.cfg

end Sys2Proof.Machine
end

