-- ==== Sys2Proof/Machine/Ops.lean ====
section
/-! DEFINITION. The shared operations: publishing a result and clearing a burst (spec/42_frame_decoder.md R169), ending
an encoding (spec/44_frame_encoder.md R249), a step of one agent or of an internal function, which faults where no run
from reset leads (spec/60_exceptions.md R314), and sequencing two outcomes. The block has no traps (R300): `publish` and
`finish` are what stands in place of taking an exception (R304, R305). -/

namespace Sys2Proof.Machine

/-! ## The writes of a result and of an ending -/

/-- R169: `publish(kind, idx, acc, lvl)`. -/
def Decoder.publish (kind : ResKind) (idx : BitVec 6) (acc : Code40) (lvl : Bool) (r : Decoder) : Decoder :=
  match kind with
  | .ok =>
    { r with
      res_valid := true, res_kind := kind, res_lvlerr := lvl, res_idx := 0
      res_pilot := pilotOf acc, res_roller := rollerOf acc, res_cbyte := cbyteOf acc
      res_cmd := commandFromByte (cbyteOf acc) }
  | .none | .tooShort | .syncMismatch | .bitError | .code5 | .code6 | .code7 =>
    { r with
      res_valid := true, res_kind := kind, res_lvlerr := lvl
      res_idx := if kind = .bitError then idx else 0
      res_pilot := 0, res_roller := 0, res_cbyte := 0, res_cmd := .unknown }

/-- R169: `clear_burst()`. -/
def Decoder.clearBurst (r : Decoder) : Decoder :=
  { r with d_cnt := 0, d_hi := 0, d_acc := 0, d_err := .none, d_eidx := 0, d_lvl := false }

/-- R172: a cycle in which the decoder takes no token performs only `res_valid <- 0`. -/
def Decoder.idle (r : Decoder) : Decoder := { r with res_valid := false }

/-- R248: a cycle in which the encoder takes neither a request nor a handshake performs only `enc_done <- 0`. -/
def Encoder.idle (e : Encoder) : Encoder := { e with enc_done := false }

/-- R249: an ending is reported in `enc_done` and `enc_code`. -/
def Encoder.finish (code : EncCode) (e : Encoder) : Encoder := { e with enc_done := true, enc_code := code }

/-! ## Outcomes -/

/-- The outcome type of this machine. -/
abbrev Out := Host.Outcome State Fault Refusal

/-- A step of the decoder agent: it reads and writes the decoder's registers only (R70). -/
def onDecoder (f : Decoder → Decoder) (s : State) : Out :=
  match s.dec.check s.cfg with
  | some why => .fault why
  | none => .next { s with dec := f s.dec }

/-- A step of the encoder agent: it reads and writes the encoder's registers only (R70). -/
def onEncoder (f : Encoder → Encoder) (s : State) : Out :=
  match s.enc.check s.cfg with
  | some why => .fault why
  | none => .next { s with enc := f s.enc }

/-- An evaluation of an internal function: it writes no register ("Flags written: none", R140, R141, R220, R221), only
the model's own output field (log entry 4). -/
def onFunction (out : FnOut) (s : State) : Out :=
  match s.check with
  | some why => .fault why
  | none => .next { s with fn_out := out }

/-- One outcome after another; a fault or a refusal ends the sequence. -/
def andThen (o : Out) (f : State → Out) : Out :=
  match o with
  | .next s => f s
  | .fault why => .fault why
  | .refused why => .refused why

end Sys2Proof.Machine
end

