-- ==== Sys2Proof/Machine/FrameDecoder.lean ====
section
/-! DEFINITION. The frame decoder (spec/42_frame_decoder.md): what each token does to the decoder's registers (R170,
R171), with every right side reading the registers' values before the edge (R8), and the two transaction rows. -/

namespace Sys2Proof.Machine

/-- The pulse's effect on the pair registers (R164, R166, R170): at an even index the high duration is latched; at
index 1 the sync pair is checked; at a later odd index, while no error is latched, the bit pair is classified. -/
def Decoder.judge (c : Cfg) (d : Nat) (r : Decoder) : Decoder :=
  if oddIndex r.d_cnt = false then { r with d_hi := d }
  else if r.d_cnt = 1 then
    if classifySync c r.d_hi d then r else { r with d_err := .sync }
  else if r.d_err = .none then
    match classifyBit c r.d_hi d with
    | .invalid => { r with d_err := .bit, d_eidx := bitIndexOf r.d_cnt }
    | .bit0 => { r with d_acc := shiftIn r.d_acc false }
    | .bit1 => { r with d_acc := shiftIn r.d_acc true }
  else r

/-- R168: the level violation seen so far, the pulse being accepted among them. -/
def Decoder.lvlAfter (lv : Level) (r : Decoder) : Bool := r.d_lvl || lv != expectedLevel r.d_cnt

/-- R170: `err' = NONE ? OK : err' = SYNC ? SYNC_MISMATCH : BIT_ERROR`. -/
def DErr.resKind : DErr → ResKind
  | .none => .ok
  | .sync => .syncMismatch
  | .bit | .code3 => .bitError

/-- R170: one PULSE token. -/
def Decoder.pulse (c : Cfg) (lv : Level) (d : Nat) (r : Decoder) : Decoder :=
  match r.d_phase with
  | .drain => r.idle
  | .collect =>
    if r.d_cnt = 81 then
      { ((r.judge c d).publish (r.judge c d).d_err.resKind (r.judge c d).d_eidx (r.judge c d).d_acc
          (r.lvlAfter lv)).clearBurst with d_phase := .drain }
    else
      { r.judge c d with d_cnt := r.d_cnt + 1, d_lvl := r.lvlAfter lv, res_valid := false }

/-- R171: one END token. -/
def Decoder.endBurst (r : Decoder) : Decoder :=
  match r.d_phase with
  | .drain => { r.idle.clearBurst with d_phase := .collect }
  | .collect => { (r.publish .tooShort 0 0 r.d_lvl).clearBurst with d_phase := .collect }

/-- `DEC_PULSE` (R170). -/
def execDecPulse (lv : Level) (d : Nat) (s : State) : Host.Outcome State Fault Refusal :=
  onDecoder (Decoder.pulse s.cfg lv d) s

/-- `DEC_END` (R171). -/
def execDecEnd (s : State) : Host.Outcome State Fault Refusal :=
  onDecoder Decoder.endBurst s

end Sys2Proof.Machine
end

