-- ==== Sys2Proof/Machine/Flags.lean ====
section
/-! DEFINITION. The status flags (spec/10_state.md R45, R46). There are no condition codes: `res_valid`, `res_lvlerr`
and `enc_done` are registers, written only by `Decoder.publish`, `Decoder.idle`, `Encoder.finish`, `Encoder.idle` and
reset; the three below are functions of the registers. -/

namespace Sys2Proof.Machine

/-- R45: "the decoder accepts a token every cycle". -/
def inReady : Bool := true

/-- R45: `req_ready = (e_state = IDLE)`. -/
def Encoder.reqReady (e : Encoder) : Bool := e.e_state == .idle

/-- R45: `out_valid = (e_state != IDLE)`. -/
def Encoder.outValid (e : Encoder) : Bool := e.e_state != .idle

end Sys2Proof.Machine
end

