-- ==== Sys2Proof/Machine/FrameEncoder.lean ====
section
/-! DEFINITION. The frame encoder (spec/44_frame_encoder.md): what a request (R246) and a handshake (R247) do to the
encoder's registers, and the two transaction rows. -/

namespace Sys2Proof.Machine

/-- R246, R254: one cycle with `req_valid = 1`. Outside `IDLE` the request is not taken. The command is checked
before the repeat count (R242). -/
def Encoder.request (p : PilotId) (r : RollerId) (cmd : Command) (n : Nat) (e : Encoder) : Encoder :=
  if e.reqReady then
    match byteFromCommand cmd with
    | .error _ => e.finish .unknownCommand
    | .ok cb =>
      if n = 0 then e.finish .badRepeat
      else { e.idle with e_code := join40 p r cb, e_rep := n, e_bit := 0, e_state := .syncH }
  else e.idle

/-- R247: one cycle with `out_ready = 1`. In `IDLE` no element is offered and nothing is taken. -/
def Encoder.ack (e : Encoder) : Encoder :=
  match e.e_state with
  | .idle | .code6 | .code7 => e.idle
  | .syncH => { e.idle with e_state := .syncL }
  | .syncL => { e.idle with e_state := .bitH }
  | .bitH => { e.idle with e_state := .bitL }
  | .bitL =>
    if e.e_bit < 39 then { e.idle with e_bit := e.e_bit + 1, e_state := .bitH }
    else if 1 < e.e_rep then { e.idle with e_state := .gap }
    else { e.finish .ok with e_state := .idle, e_bit := 0, e_rep := 0 }
  | .gap => { e.idle with e_rep := e.e_rep - 1, e_bit := 0, e_state := .syncH }

/-- `ENC_REQ` (R246). -/
def execEncReq (p : PilotId) (r : RollerId) (cmd : Command) (n : Nat) (s : State) :
    Host.Outcome State Fault Refusal :=
  onEncoder (Encoder.request p r cmd n) s

/-- `ENC_ACK` (R247). -/
def execEncAck (s : State) : Host.Outcome State Fault Refusal :=
  onEncoder Encoder.ack s

end Sys2Proof.Machine
end

