-- ==== Sys2Proof/Machine/Functions.lean ====
section
/-! DEFINITION. The four internal functions of the transaction table (spec/41_pulse_classifier.md R140, R141;
spec/43_command_mapper.md R220, R221), evaluated on their own. -/

namespace Sys2Proof.Machine

/-- `CLASSIFY_BIT` (R140). -/
def execClassifyBit (h l : Nat) (s : State) : Host.Outcome State Fault Refusal :=
  onFunction (.bitValue (classifyBit s.cfg h l)) s

/-- `CLASSIFY_SYNC` (R141). -/
def execClassifySync (h l : Nat) (s : State) : Host.Outcome State Fault Refusal :=
  onFunction (.isSync (classifySync s.cfg h l)) s

/-- `CMD_FROM_BYTE` (R220). -/
def execCmdFromByte (b : CmdByte) (s : State) : Host.Outcome State Fault Refusal :=
  onFunction (.command (commandFromByte b)) s

/-- R221: a byte, or the error as a value: "the error is a result value". -/
def FnOut.ofByte : Except EncodeError CmdByte → FnOut
  | .ok b => .byte b
  | .error e => .byteError e

/-- `BYTE_FROM_CMD` (R221). -/
def execByteFromCmd (c : Command) (s : State) : Host.Outcome State Fault Refusal :=
  onFunction (.ofByte (byteFromCommand c)) s

end Sys2Proof.Machine
end

