-- ==== Sys2Proof/Machine/Reset.lean ====
section
/-! DEFINITION. Reset (spec/70_reset_and_hazards.md R340–R343). -/

namespace Sys2Proof.Machine

/-- `RESET` (R340): every register of R25, R33 and R41 takes its reset value, whatever it held: also from the
unspecified values of power-up (R343 step 2), so no fault is raised here (log entry 6). The configuration (R47) and
the model's own fields are no registers and keep their values. -/
def execReset (s : State) : Host.Outcome State Fault Refusal :=
  .next { s with dec := Decoder.reset, enc := Encoder.reset }

end Sys2Proof.Machine
end

