-- ==== Sys2Proof/Machine/Dispatch.lean ====
section
/-! DEFINITION. One arm for each transaction of spec/opcode_table.json. -/

namespace Sys2Proof.Machine

def exec (i : Instr) (s : State) : Host.Outcome State Fault Refusal :=
  match i with
  | .decPulse lv d => Sys2Proof.Machine.execDecPulse lv d s
  | .decEnd => Sys2Proof.Machine.execDecEnd s
  | .encReq p r cmd n => Sys2Proof.Machine.execEncReq p r cmd n s
  | .encAck => Sys2Proof.Machine.execEncAck s
  | .reset => Sys2Proof.Machine.execReset s
  | .classifyBit h l => Sys2Proof.Machine.execClassifyBit h l s
  | .classifySync h l => Sys2Proof.Machine.execClassifySync h l s
  | .cmdFromByte b => Sys2Proof.Machine.execCmdFromByte b s
  | .byteFromCmd c => Sys2Proof.Machine.execByteFromCmd c s

end Sys2Proof.Machine
end

