-- ==== Sys2Proof/Machine/Cycle.lean ====
section
/-! DEFINITION. One clock cycle: which transactions its inputs amount to, and both agents acting on them
(spec/30_encoding.md R96; spec/60_exceptions.md R303). -/

namespace Sys2Proof.Machine

/-- The decoder's part of a cycle: the token offered (R170, R171), or R172. `in_ready` is always 1 (R45). -/
def decoderTurn (p : Ports) (s : State) : Out :=
  if p.in_valid then exec (decodeToken s.cfg p.in_word) s else onDecoder Decoder.idle s

/-- The encoder's part of a cycle: in `IDLE` it takes the request offered (R246), elsewhere the handshake (R247), "never
both, since `req_ready` and `out_valid` exclude each other" (R303); with neither, R248. -/
def encoderTurn (p : Ports) (s : State) : Out :=
  if s.enc.reqReady then
    if p.req_valid then exec (decodeRequest s.cfg p.req_word) s else onEncoder Encoder.idle s
  else
    if p.out_ready then exec .encAck s else onEncoder Encoder.idle s

/-- One clock cycle. Reset overrides every transaction (R340); otherwise both agents act, independently (R70). They
share no register, so that the encoder acts second is no order between them. -/
def clockEdge (p : Ports) (s : State) : Out :=
  if p.rst then exec .reset s else andThen (decoderTurn p s) (encoderTurn p)

/-- What the outside did this time. -/
def respond (x : Stimulus) (s : State) : Out :=
  match x with
  | .cycle p => clockEdge p s
  | .evaluate f => exec (decodeCall s.cfg f) s

/-- The stimulus that puts a word on its port for one cycle, every other valid line 0 (R100: "one transaction per
line; each line is one clock cycle"). -/
def stimulusOf : PortWord → Stimulus
  | .token w => .cycle { Ports.idle with in_valid := true, in_word := w }
  | .request w => .cycle { Ports.idle with req_valid := true, req_word := w }
  | .outReady w => .cycle { Ports.idle with out_ready := w == 1 }
  | .rst w => .cycle { Ports.idle with rst := w == 1 }
  | .call f => .evaluate f

/-- The state with one more input in front of those still to come. -/
def State.offer (x : Stimulus) (s : State) : State := { s with pending := x :: s.pending }

end Sys2Proof.Machine
end

