-- ==== Sys2Proof/Machine/Step.lean ====
section
/-! DEFINITION. One step of the machine: it takes the next of the inputs still to come. There is no program counter
and no fetch (spec/10_state.md R24, spec/20_memory.md R72). -/

namespace Sys2Proof.Machine

/-- One step. With nothing left to come every valid line is 0 (log entry 5). -/
def step (s : State) : Host.Outcome State Fault Refusal :=
  match s.pending with
  | [] => clockEdge Ports.idle s
  | x :: rest => respond x { s with pending := rest }

/-- The state whose very next step puts this word of the transaction table on its port (log entries 3 and 5). The
table's words have the widths of `Config.cfg`. A number that is no word of the table offers nothing. -/
def State.withFetchWord (s : State) (nbits w : Nat) : State :=
  match tableWord nbits w with
  | some pw => s.offer (stimulusOf pw)
  | none => s

end Sys2Proof.Machine
end

