-- ==== Sys2Proof/Machine/Outputs.lean ====
section
/-! DEFINITION. The output ports as functions of the registers (spec/30_encoding.md R92, R94–R96;
spec/44_frame_encoder.md R251), with the codes of the enumerated registers. Sampling one has no side effect (R67). -/

namespace Sys2Proof.Machine

/-! ## Codes -/

/-- R25. -/
def Phase.code : Phase → BitVec 1
  | .collect => 0
  | .drain => 1

/-- R25. -/
def DErr.code : DErr → BitVec 2
  | .none => 0
  | .sync => 1
  | .bit => 2
  | .code3 => 3

/-- R33. -/
def EState.code : EState → BitVec 3
  | .idle => 0
  | .syncH => 1
  | .syncL => 2
  | .bitH => 3
  | .bitL => 4
  | .gap => 5
  | .code6 => 6
  | .code7 => 7

/-- R42, R94. -/
def ResKind.code : ResKind → BitVec 3
  | .none => 0
  | .ok => 1
  | .tooShort => 2
  | .syncMismatch => 3
  | .bitError => 4
  | .code5 => 5
  | .code6 => 6
  | .code7 => 7

/-- R95. -/
def EncCode.code : EncCode → BitVec 2
  | .none => 0
  | .ok => 1
  | .unknownCommand => 2
  | .badRepeat => 3

/-- R91: `{valid, bit}`; `01` is never produced. -/
def BitValue.code : BitValue → BitVec 2
  | .invalid => 0b00
  | .bit0 => 0b10
  | .bit1 => 0b11

/-! ## The encoder's element -/

/-- An output element (R92). -/
structure Element where
  dur : Nat
  level : Level
  gap : Bool
  last : Bool
deriving DecidableEq, Repr

/-- R92: `{last, gap, level, dur}`; the port carries `DUR_W` bits of the duration. -/
def Element.word (c : Cfg) (x : Element) : Nat :=
  x.last.toNat * 2 ^ (c.DUR_W + 2) + x.gap.toNat * 2 ^ (c.DUR_W + 1) + x.level.code.toNat * 2 ^ c.DUR_W +
    bitField x.dur 0 c.DUR_W

/-- R251: the output function. In `IDLE` the fields are "defined as zeros" (93 U12). The never-written values of
`e_state` and `e_bit` (R34, 93 U7) offer no element: the spec gives them no output. -/
def Encoder.element (c : Cfg) (e : Encoder) : Option Element :=
  if 39 < e.e_bit.toNat then none
  else
    match e.e_state with
    | .idle => some ⟨0, .low, false, false⟩
    | .syncH => some ⟨nominal c .sync .high, .high, false, false⟩
    | .syncL => some ⟨nominal c .sync .low, .low, false, false⟩
    | .bitH => some ⟨nominal c (.ofBit (codeBit e.e_code e.e_bit.toNat)) .high, .high, false, false⟩
    | .bitL =>
      some ⟨nominal c (.ofBit (codeBit e.e_code e.e_bit.toNat)) .low, .low, false, e.e_bit == 39 && e.e_rep == 1⟩
    | .gap => some ⟨c.GAP_US, .low, true, false⟩
    | .code6 | .code7 => none

/-- The element offered to the transmitter: none while `out_valid = 0` (R251, 93 U12). -/
def Encoder.offered (c : Cfg) (e : Encoder) : Option Element := if e.outValid then e.element c else none

/-! ## The output ports -/

/-- R94: `{res_lvlerr, res_kind, res_idx, res_cmd, res_pilot, res_roller, res_cbyte}`. -/
def Decoder.resultWord (r : Decoder) : ResultWord :=
  ((BitVec.ofBool r.res_lvlerr).setWidth 52 <<< 51) ||| (r.res_kind.code.setWidth 52 <<< 48) |||
    (r.res_idx.setWidth 52 <<< 42) ||| (r.res_cmd.code.setWidth 52 <<< 40) ||| (r.res_pilot.setWidth 52 <<< 12) |||
    (r.res_roller.setWidth 52 <<< 8) ||| r.res_cbyte.setWidth 52

/-- Every output port of R96 in one cycle. -/
structure OutPorts where
  in_ready : Bool
  res_valid : Bool
  res_word : ResultWord
  req_ready : Bool
  out_valid : Bool
  out_element : Option Element
  enc_done : Bool
  enc_code : BitVec 2
deriving DecidableEq, Repr

/-- The output ports, a function of the registers alone (R45, R96). -/
def State.outPorts (s : State) : OutPorts where
  in_ready := inReady
  res_valid := s.dec.res_valid
  res_word := s.dec.resultWord
  req_ready := s.enc.reqReady
  out_valid := s.enc.outValid
  out_element := s.enc.element s.cfg
  enc_done := s.enc.enc_done
  enc_code := s.enc.enc_code.code

end Sys2Proof.Machine
end

