-- ==== Sys2Proof/Machine/Frame.lean ====
section
/-! DEFINITION. The source's two pure functions: `decode` of a whole burst (spec/42_frame_decoder.md R160) and `encode`
of a request into its sequence of elements (spec/44_frame_encoder.md R240, R241). The registers of the two agents must
agree with them (R174, R255); they are no part of a step. -/

namespace Sys2Proof.Machine

/-- `PulseEvent` (R10). -/
structure Pulse where
  dur : Nat
  level : Level
deriving DecidableEq, Repr

/-- The source's decode failures (R160, R301). -/
inductive DecodeError where
  | tooShort
  | syncMismatch
  | bitDecodeError (i : Nat)
deriving DecidableEq, Repr

/-- `DecodedFrame` (R160). -/
structure DecodedFrame where
  pilot_id : PilotId
  roller_id : RollerId
  command : Command
deriving DecidableEq, Repr

/-- `s[j].duration` (R9); only indices below the length are ever asked for. -/
def durAt (s : List Pulse) (j : Nat) : Nat := (s.getD j ⟨0, .low⟩).dur

/-- R160: one round of the loop, for bit pair `i`. -/
def decodePair (c : Cfg) (s : List Pulse) (code : Code40) (i : Nat) : Except DecodeError Code40 :=
  match classifyBit c (durAt s (2 + 2 * i)) (durAt s (2 + 2 * i + 1)) with
  | .invalid => .error (.bitDecodeError i)
  | .bit0 => .ok (shiftIn code false)
  | .bit1 => .ok (shiftIn code true)

/-- R160 up to the field split: the Code40 of a burst, or its failure. -/
def decodeCode (c : Cfg) (s : List Pulse) : Except DecodeError Code40 :=
  if s.length < 82 then .error .tooShort
  else if classifySync c (durAt s 0) (durAt s 1) = false then .error .syncMismatch
  else (List.range 40).foldlM (decodePair c s) 0

/-- R160: `decode(s)`. -/
def decodeFrame (c : Cfg) (s : List Pulse) : Except DecodeError DecodedFrame :=
  match decodeCode c s with
  | .error e => .error e
  | .ok code => .ok ⟨pilotOf code, rollerOf code, commandFromByte (cbyteOf code)⟩

/-- R241: the two elements of a symbol. -/
def symbolElements (c : Cfg) (y : Sym) : List Element :=
  [⟨nominal c y .high, .high, false, false⟩, ⟨nominal c y .low, .low, false, false⟩]

/-- R241: `frame(code)`, bit pair `i` carrying bit `39 - i`. -/
def frameElements (c : Cfg) (code : Code40) : List Element :=
  symbolElements c .sync ++ (List.range 40).flatMap fun i => symbolElements c (.ofBit (codeBit code i))

/-- R241: `GAP`. -/
def gapElement (c : Cfg) : Element := ⟨c.GAP_US, .low, true, false⟩

/-- R240: "mark the final element of seq with last = 1". -/
def markLast : List Element → List Element
  | [] => []
  | [x] => [{ x with last := true }]
  | x :: y :: rest => x :: markLast (y :: rest)

/-- R240: the repetitions, with a gap between two and none after the last. -/
def repetitions (c : Cfg) (code : Code40) (n : Nat) : List Element :=
  (List.range n).flatMap fun r => frameElements c code ++ if r < n - 1 then [gapElement c] else []

/-- R240: `encode(pilot, roller, cmd, n)`. -/
def encodeFrame (c : Cfg) (p : PilotId) (r : RollerId) (cmd : Command) (n : Nat) :
    Except EncodeError (List Element) :=
  match byteFromCommand cmd with
  | .error e => .error e
  | .ok cb => if n = 0 then .error .badRepeat else .ok (markLast (repetitions c (join40 p r cb) n))

/-- The pulse a transmitter makes of an element (R262: "the elements with their durations and levels"). -/
def Element.pulse (x : Element) : Pulse := ⟨x.dur, x.level⟩

/-- R174: a level violation among the pulses that count. -/
def levelViolation (s : List Pulse) : Bool :=
  ((s.take 82).zipIdx).any fun pj => pj.1.level != if pj.2 % 2 = 0 then .high else .low

/-- The decoder's registers after the PULSE tokens of `s`, one a cycle (R174). -/
def Decoder.feed (c : Cfg) (s : List Pulse) (r : Decoder) : Decoder :=
  s.foldl (fun r x => r.pulse c x.level x.dur) r

/-- R174: the result registers hold `res(out)`, with `lvl` in `res_lvlerr`. -/
def Decoder.Reports (out : Except DecodeError Code40) (lvl : Bool) (r : Decoder) : Prop :=
  r.res_lvlerr = lvl ∧
  match out with
  | .ok code =>
    r.res_kind = .ok ∧ r.res_idx = 0 ∧ r.res_pilot = pilotOf code ∧ r.res_roller = rollerOf code ∧
    r.res_cbyte = cbyteOf code ∧ r.res_cmd = commandFromByte (cbyteOf code)
  | .error e =>
    r.res_pilot = 0 ∧ r.res_roller = 0 ∧ r.res_cbyte = 0 ∧ r.res_cmd = .unknown ∧
    match e with
    | .tooShort => r.res_kind = .tooShort ∧ r.res_idx = 0
    | .syncMismatch => r.res_kind = .syncMismatch ∧ r.res_idx = 0
    | .bitDecodeError i => r.res_kind = .bitError ∧ r.res_idx.toNat = i

end Sys2Proof.Machine
end

