-- ==== Sys2Proof/Machine/Script.lean ====
section
/-! DEFINITION. The textual form of a test program (spec/30_encoding.md R100): each line is one clock cycle, but for
`ACK*`, whose length the encoder decides. -/

namespace Sys2Proof.Machine.Script

/-- The line of one transaction. -/
def line (c : Cfg) (i : Instr) : Stimulus := stimulusOf (encode c i)

/-- `PULSE H d` and `PULSE L d`. -/
def pulse (c : Cfg) (lv : Level) (d : Nat) : Stimulus := line c (.decPulse lv d)

/-- `END`. -/
def endLine (c : Cfg) : Stimulus := line c .decEnd

/-- `ENC p, r, cmd, n`. -/
def enc (c : Cfg) (p : PilotId) (r : RollerId) (cmd : Command) (n : Nat) : Stimulus := line c (.encReq p r cmd n)

/-- `ACK`. -/
def ack (c : Cfg) : Stimulus := line c .encAck

/-- How many cycles `ACK*` lasts when it starts at the encoder's registers `e`, looked for among the first `bound`: to
the cycle that takes the element with `last = 1`, or to where `enc_done` already stands (log entry 14). -/
def ackStarLength (c : Cfg) : (bound : Nat) → (e : Encoder) → Option Nat
  | 0, _ => none
  | bound + 1, e =>
    if e.enc_done then some 0
    else if (e.offered c).any (·.last) then some 1
    else (ackStarLength c bound e.ack).map (· + 1)

/-- `ACK*`: the cycles it stands for at the encoder's registers `e`. With `e_rep` repetitions left an encoding has fewer
than `83 * e_rep` elements left (R256). None where no encoding runs and none has just ended: there the notation names no
last cycle (log entry 14). -/
def ackStar (c : Cfg) (e : Encoder) : Option (List Stimulus) :=
  (ackStarLength c (83 * e.e_rep + 1) e).map (List.replicate · (ack c))

/-- `NOP`. -/
def nop : Stimulus := .cycle Ports.idle

/-- `RESET`. -/
def reset (c : Cfg) : Stimulus := line c .reset

/-- `PAIR h l`. -/
def pair (c : Cfg) (h l : Nat) : List Stimulus := [pulse c .high h, pulse c .low l]

/-- `SYNC`, `BIT0` and `BIT1`, with the nominal durations of `cfg`. -/
def symbol (c : Cfg) (y : Sym) : List Stimulus := pair c (nominal c y .high) (nominal c y .low)

/-- `FRAME x`: `SYNC`, then for `i` = 0..39 `BIT1` if `x[39-i] = 1` else `BIT0`. -/
def frame (c : Cfg) (x : Code40) : List Stimulus :=
  symbol c .sync ++ (List.range 40).flatMap fun i => symbol c (.ofBit (codeBit x i))

/-- One statement of a program: cycles that its text alone fixes, or `ACK*`. -/
inductive Line where
  | cycles (xs : List Stimulus)
  | ackStar
deriving DecidableEq, Repr

/-- The cycles of a statement that starts in state `s`. -/
def Line.at (s : State) : Line → Option (List Stimulus)
  | .cycles xs => some xs
  | .ackStar => Script.ackStar s.cfg s.enc

/-- The cycles of a program that starts in state `s`. None if an `ACK*` of it has no end or the machine stops. -/
def expand : List Line → State → Option (List Stimulus)
  | [], _ => some []
  | l :: rest, s =>
    (l.at s).bind fun xs =>
      match Sys2Proof.core.run xs.length { s with pending := xs } with
      | .next t => (expand rest t).map (xs ++ ·)
      | .fault _ | .refused _ => none

end Sys2Proof.Machine.Script
end

