-- ==== Sys2Proof/Safety.lean ====
section
/-! DEFINITION. What counts as a safe run, and what the host must do for one to mean what it intends
(spec/60_exceptions.md R314; spec/70_reset_and_hazards.md R350, R353). -/

namespace Sys2Proof

/-- The states that some run from reset leads to (R48): every register at a value its table calls legal, and the
registers of each agent at values that go together. The agents share no register (R70), so nothing joins them. -/
abbrev Machine.State.Sound (s : Machine.State) : Prop := s.dec.check s.cfg = none ∧ s.enc.check s.cfg = none

/-- A run of `k` steps that meets no fault and no refusal. -/
def SafeRun (k : Nat) (s : Machine.State) : Prop := ∃ s', Sys2Proof.core.run k s = .next s'

/-- R96, R353: a request offered while `req_ready = 0` is offered again, unchanged, in the next cycle. The block
checks nothing of this; a request withdrawn is "simply never taken". -/
def requestHeld (s : Machine.State) : Bool :=
  match s.pending with
  | .cycle p :: .cycle q :: _ =>
    !(p.req_valid && !s.enc.reqReady && !p.rst) || (q.req_valid && q.req_word == p.req_word)
  | _ => true

/-- R350: no pulse arrives while the decoder ignores pulses. -/
def noPulseLost (s : Machine.State) : Bool :=
  match s.pending with
  | .cycle p :: _ => !(p.in_valid && !isEnd s.cfg p.in_word && s.dec.d_phase == .drain && !p.rst)
  | _ => true

end Sys2Proof
end

