-- ==== Sys2Proof/WellFormed.lean ====
section
/-! DEFINITION. Which transactions carry only operands that fit their ports (spec/30_encoding.md R96) and that R93 calls
legal. A request with an illegal operand is still an instruction: R97 accepts every request word, and one with `cmd = 0`
or `rep = 0` ends in an error (R98). One with an operand wider than its port has no word at all. -/

namespace Sys2Proof

/-- R96: every operand fits the width its port gives it. The operands of one width fit by their type. -/
def Instr.operandsFit (c : Cfg) : Instr → Bool
  | .decPulse _ dur => c.fitsDur dur
  | .encReq _ _ _ rep => c.fitsRep rep
  | .classifyBit h l | .classifySync h l => c.fitsDur h && c.fitsDur l
  | .decEnd | .encAck | .reset | .cmdFromByte _ | .byteFromCmd _ => true

/-- R93: the `cmd` field is "legal 1..3", that is, not `Unknown`. -/
def Instr.commandLegal : Instr → Bool
  | .encReq _ _ cmd _ => cmd != .unknown
  | .decPulse _ _ | .decEnd | .encAck | .reset | .classifyBit _ _ | .classifySync _ _ | .cmdFromByte _
  | .byteFromCmd _ => true

/-- R93: the `rep` field is "legal 1..`2^R_W - 1`", that is, not 0. -/
def Instr.repeatLegal : Instr → Bool
  | .encReq _ _ _ rep => rep != 0
  | .decPulse _ _ | .decEnd | .encAck | .reset | .classifyBit _ _ | .classifySync _ _ | .cmdFromByte _
  | .byteFromCmd _ => true

/-- All three checks. -/
def Instr.wellFormed (c : Cfg) (i : Instr) : Bool := i.operandsFit c && i.commandLegal && i.repeatLegal

end Sys2Proof
end

