-- ==== Sys2Proof/Certificates/Slice0/Obligations.lean ====
section
/-! DEFINITION. What the provers are asked to prove of the machine. Each docstring names the rule of spec/ it states. -/

open Sys2Proof Sys2Proof.Machine

/-! ## Reset and the invariant -/

/-- R340 (with R47's values): at an edge with `rst = 1` every register takes its reset value, whatever the state and
the other inputs. -/
def Obligations.ResetOverridesEveryInput : Prop :=
  ∀ (s : State) (p : Ports) (rest : List Stimulus), s.Sound → p.rst = true → s.pending = .cycle p :: rest →
    ∃ t, step s = .next t ∧ exec .reset { s with pending := rest } = .next t ∧
      t.dec = ⟨.collect, 0, 0, 0, .none, 0, false, false, .none, 0, 0, 0, 0, .unknown, false⟩ ∧
      t.enc = ⟨.idle, 0, 0, 0, false, .none⟩ ∧ t.enc.reqReady = true ∧ t.enc.outValid = false

/-- `RESET` completes in every state, the unspecified one of power-up among them (R343), with the registers of R47 and
the configuration "not affected". That it works from a state no reset led to is the model's reading (log entry 6); that
it leaves the model's own fields alone is the model's choice (log entries 4 and 5). -/
def Obligations.ResetCompletes : Prop :=
  ∀ s : State, exec .reset s = .next ⟨Decoder.reset, Encoder.reset, s.cfg, s.pending, s.fn_out⟩ ∧
    ∀ (p : Ports) (rest : List Stimulus), p.rst = true → s.pending = .cycle p :: rest →
      step s = .next ⟨Decoder.reset, Encoder.reset, s.cfg, rest, s.fn_out⟩

/-- For every configuration, the state after reset meets the invariant of `StepKeepsSound`. -/
def Obligations.ResetStateIsSound : Prop := ∀ c : Cfg, (State.resetWith c).Sound

/-- Every step keeps the registers at values that some run from reset leads to (R25, R27–R33, R36, R37, R42–R44), for
every configuration and whatever the inputs. -/
def Obligations.StepKeepsSound : Prop :=
  ∀ s t : State, s.Sound → step s = .next t → t.Sound

/-- A sound state always steps: no input whatever stops the machine. -/
def Obligations.SoundStateSteps : Prop :=
  ∀ s : State, s.Sound → ∃ t, step s = .next t

/-- R314: none of the fault points is reached from reset, for any configuration, any inputs and any number of steps. -/
def Obligations.NoFaultFromReset : Prop :=
  ∀ (c : Cfg) (k : Nat) (inputs : List Stimulus), SafeRun k { State.resetWith c with pending := inputs }

/-- R314, R48: the states that may step are only states that a run from reset leads to: for the registers of every sound
state there are inputs, one cycle each, that lead from the reset state of its configuration to them. -/
def Obligations.SoundStatesAreReached : Prop :=
  ∀ s : State, s.Sound → ∃ (ps : List Ports) (t : State),
    Sys2Proof.core.run ps.length { State.resetWith s.cfg with pending := ps.map .cycle } = .next t ∧
      t.dec = s.dec ∧ t.enc = s.enc

/-- R314: from any other state every step is a fault, a clock cycle as well as an internal function; only reset leaves
such a state (log entry 6). -/
def Obligations.UnreachedStatesFault : Prop :=
  ∀ s : State, ¬ s.Sound → (∀ (p : Ports) (rest : List Stimulus), s.pending = .cycle p :: rest → p.rst = false) →
    ∃ why, step s = .fault why

/-- R23: no transaction and no step changes a configuration constant. -/
def Obligations.ConfigurationNeverChanges : Prop :=
  (∀ (i : Instr) (s t : State), exec i s = .next t → t.cfg = s.cfg) ∧
  (∀ s t : State, step s = .next t → t.cfg = s.cfg)

/-- R314 (with 93 U3–U7, U9): a step from a register value that is never written faults: every transaction of the agent
that holds the register, every internal function, and a cycle without a transaction. -/
def Obligations.NeverWrittenValuesFault : Prop :=
  ∀ (s : State) (lv : Level) (d : Nat) (p : PilotId) (r : RollerId) (cmd : Command) (n h l : Nat) (b : CmdByte),
    let decoderBad := s.dec.d_err = .code3 ∨ 81 < s.dec.d_cnt.toNat ∨ 39 < s.dec.d_eidx.toNat ∨
      s.dec.res_kind = .code5 ∨ s.dec.res_kind = .code6 ∨ s.dec.res_kind = .code7
    let encoderBad := s.enc.e_state = .code6 ∨ s.enc.e_state = .code7 ∨ 39 < s.enc.e_bit.toNat
    let faults (o : Out) : Prop := ∃ why, o = .fault why
    (decoderBad → faults (exec (.decPulse lv d) s) ∧ faults (exec .decEnd s)) ∧
    (encoderBad → faults (exec (.encReq p r cmd n) s) ∧ faults (exec .encAck s)) ∧
    (decoderBad ∨ encoderBad →
      faults (exec (.classifyBit h l) s) ∧ faults (exec (.classifySync h l) s) ∧ faults (exec (.cmdFromByte b) s) ∧
      faults (exec (.byteFromCmd cmd) s) ∧ faults (step { s with pending := [] }))

/-! ## Steps, cycles and the ports -/

/-- A word placed on its port is what the next step runs: the step is `exec` of the decoded transaction, and the agent
that the word does not address has a cycle without a transaction (R172, R248). A bare table word stands for the port word
that log entry 3 says, read at the table's widths. -/
def Obligations.StepRunsDecodedTransaction : Prop :=
  (∀ (s : State) (w : PortWord) (i : Instr), decode s.cfg w = .ok i →
    step (s.offer (stimulusOf w)) =
      match i with
      | .decPulse _ _ | .decEnd => andThen (exec i s) (onEncoder fun e => { e with enc_done := false })
      | .encReq _ _ _ _ | .encAck => andThen (onDecoder (fun r => { r with res_valid := false }) s) (exec i)
      | .reset | .classifyBit _ _ | .classifySync _ _ | .cmdFromByte _ | .byteFromCmd _ => exec i s) ∧
  (∀ (s : State) (nbits w : Nat) (i : Instr), decodeTableWord nbits w = some i →
    ∃ pw, decode Config.cfg pw = .ok i ∧ s.withFetchWord nbits w = s.offer (stimulusOf pw))

/-- R303, R8: in one cycle the decoder takes the token offered and the encoder the request (in `IDLE`) or the handshake
(elsewhere), each as `exec` gives it from the registers before the edge; an agent with nothing to take only drops its
strobe. -/
def Obligations.BothAgentsActInOneCycle : Prop :=
  ∀ (s : State) (p : Ports) (rest : List Stimulus), s.Sound → p.rst = false → s.pending = .cycle p :: rest →
    ∃ (r : Decoder) (e : Encoder), step s = .next { s with dec := r, enc := e, pending := rest } ∧
      (p.in_valid = true → exec (decodeToken s.cfg p.in_word) s = .next { s with dec := r }) ∧
      (p.in_valid = false → r = { s.dec with res_valid := false }) ∧
      (s.enc.e_state = .idle → p.req_valid = true → exec (decodeRequest s.cfg p.req_word) s = .next { s with enc := e }) ∧
      (s.enc.e_state ≠ .idle → p.out_ready = true → exec .encAck s = .next { s with enc := e }) ∧
      ((if s.enc.e_state = .idle then p.req_valid else p.out_ready) = false → e = { s.enc with enc_done := false })

/-- R70: "a decoder step never depends on the encoder's state and vice versa": equal registers and equal inputs of an
agent give equal registers, whatever the other agent holds and is offered. They share the configuration only (R3). -/
def Obligations.AgentsAreIndependent : Prop :=
  ∀ (s₁ s₂ t₁ t₂ : State) (p₁ p₂ : Ports), s₁.cfg = s₂.cfg → p₁.rst = p₂.rst →
    clockEdge p₁ s₁ = .next t₁ → clockEdge p₂ s₂ = .next t₂ →
    (s₁.dec = s₂.dec → p₁.in_valid = p₂.in_valid → p₁.in_word = p₂.in_word → t₁.dec = t₂.dec) ∧
    (s₁.enc = s₂.enc → p₁.req_valid = p₂.req_valid → p₁.req_word = p₂.req_word → p₁.out_ready = p₂.out_ready →
      t₁.enc = t₂.enc)

/-- 93 U13, U14: the words of a port whose valid line is 0 are not sampled, and neither is a request while the encoder
is busy; nor does `out_ready` matter in `IDLE` (R247). -/
def Obligations.UnsampledInputsIgnored : Prop :=
  ∀ (s : State) (p q : Ports), p.rst = q.rst → p.in_valid = q.in_valid →
    (p.in_valid = true → p.in_word = q.in_word) →
    (s.enc.e_state = .idle → p.req_valid = q.req_valid ∧ (p.req_valid = true → p.req_word = q.req_word)) →
    (s.enc.e_state ≠ .idle → p.out_ready = q.out_ready) →
    clockEdge p s = clockEdge q s

/-- R89: the `level` and `dur` bits of an END token are ignored. -/
def Obligations.EndTokenBitsIgnored : Prop :=
  ∀ (s : State) (w₁ w₂ : Nat), isEnd s.cfg w₁ = true → isEnd s.cfg w₂ = true →
    decode s.cfg (.token w₁) = .ok .decEnd ∧
    step (s.offer (stimulusOf (.token w₁))) = step (s.offer (stimulusOf (.token w₂)))

/-- The frame of every transaction: the other agent's registers, the configuration, the inputs to come and, but
for the internal functions,
the model's own output field are unchanged; an internal function writes no register at all. -/
def Obligations.TransactionsKeepTheOtherAgent : Prop :=
  ∀ (i : Instr) (s t : State), exec i s = .next t →
    t.cfg = s.cfg ∧ t.pending = s.pending ∧
    match i with
    | .decPulse _ _ | .decEnd => t.enc = s.enc ∧ t.fn_out = s.fn_out
    | .encReq _ _ _ _ | .encAck => t.dec = s.dec ∧ t.fn_out = s.fn_out
    | .reset => t.fn_out = s.fn_out
    | .classifyBit _ _ | .classifySync _ _ | .cmdFromByte _ | .byteFromCmd _ => t.dec = s.dec ∧ t.enc = s.enc

/-! ## The decoder's transactions -/

/-- R28, R170: a PULSE at an even index latches its duration and moves on; nothing else but `d_lvl` and the strobe. -/
def Obligations.EvenPulseLatchesHighDuration : Prop :=
  ∀ (s : State) (lv : Level) (d : Nat), s.dec.check s.cfg = none → s.dec.d_phase = .collect →
    s.dec.d_cnt.toNat % 2 = 0 →
    exec (.decPulse lv d) s = .next { s with dec := { s.dec with
      d_hi := d, d_cnt := s.dec.d_cnt + 1, d_lvl := s.dec.d_lvl || lv != .high, res_valid := false } }

/-- R164: the sync check takes place at the pulse with index 1, and its failure is only latched there. -/
def Obligations.SecondPulseChecksSync : Prop :=
  ∀ (s : State) (lv : Level) (d : Nat), s.dec.check s.cfg = none → s.dec.d_phase = .collect → s.dec.d_cnt = 1 →
    exec (.decPulse lv d) s = .next { s with dec := { s.dec with
      d_err := if classifySync s.cfg s.dec.d_hi d then .none else .sync,
      d_cnt := 2, d_lvl := s.dec.d_lvl || lv != .low, res_valid := false } }

/-- R166 for the odd indices 3..79: the bit pair is classified; `INVALID` latches the error and its index, a bit is
shifted into the accumulator. (Index 81 is `LastPulsePublishes`.) -/
def Obligations.OddPulseClassifiesBitPair : Prop :=
  ∀ (s : State) (lv : Level) (d : Nat), s.dec.check s.cfg = none → s.dec.d_phase = .collect → s.dec.d_err = .none →
    s.dec.d_cnt.toNat % 2 = 1 → 3 ≤ s.dec.d_cnt.toNat → s.dec.d_cnt.toNat ≤ 79 →
    exec (.decPulse lv d) s = .next { s with
      dec :=
        let r : Decoder := { s.dec with d_cnt := s.dec.d_cnt + 1, d_lvl := s.dec.d_lvl || lv != .low, res_valid := false }
        match classifyBit s.cfg s.dec.d_hi d with
        | .invalid => { r with d_err := .bit, d_eidx := BitVec.ofNat 6 ((s.dec.d_cnt.toNat - 3) / 2) }
        | .bit0 => { r with d_acc := BitVec.ofNat 40 (2 * s.dec.d_acc.toNat) }
        | .bit1 => { r with d_acc := BitVec.ofNat 40 (2 * s.dec.d_acc.toNat + 1) } }

/-- R163 below index 81: once an error is latched only `d_cnt`, `d_hi` and `d_lvl` go on changing. -/
def Obligations.FirstErrorFreezesBurst : Prop :=
  ∀ (s : State) (lv : Level) (d : Nat), s.dec.check s.cfg = none → s.dec.d_phase = .collect → s.dec.d_err ≠ .none →
    s.dec.d_cnt.toNat < 81 →
    exec (.decPulse lv d) s = .next { s with dec := { s.dec with
      d_hi := if s.dec.d_cnt.toNat % 2 = 0 then d else s.dec.d_hi,
      d_cnt := s.dec.d_cnt + 1,
      d_lvl := s.dec.d_lvl || lv != (if s.dec.d_cnt.toNat % 2 = 0 then .high else .low),
      res_valid := false } }

/-- R165 (a), R169, R170: the pulse with index 81 publishes the burst's one result, clears the working registers and
enters `DRAIN`. The latched error wins over the last bit pair. -/
def Obligations.LastPulsePublishes : Prop :=
  ∀ (s : State) (lv : Level) (d : Nat), s.dec.check s.cfg = none → s.dec.d_phase = .collect → s.dec.d_cnt = 81 →
    let result (kind : ResKind) (idx : BitVec 6) (p : PilotId) (r : RollerId) (c : CmdByte) (cmd : Command) : Out :=
      .next { s with dec :=
        ⟨.drain, 0, 0, 0, .none, 0, false, true, kind, idx, p, r, c, cmd, s.dec.d_lvl || lv != .low⟩ }
    let full (code : Nat) : Out :=
      result .ok 0 (BitVec.ofNat 28 (code / 2 ^ 12)) (BitVec.ofNat 4 (code / 2 ^ 8)) (BitVec.ofNat 8 code)
        (commandFromByte (BitVec.ofNat 8 code))
    (s.dec.d_err = .sync → exec (.decPulse lv d) s = result .syncMismatch 0 0 0 0 .unknown) ∧
    (s.dec.d_err = .bit → exec (.decPulse lv d) s = result .bitError s.dec.d_eidx 0 0 0 .unknown) ∧
    (s.dec.d_err = .none → exec (.decPulse lv d) s =
      match classifyBit s.cfg s.dec.d_hi d with
      | .invalid => result .bitError 39 0 0 0 .unknown
      | .bit0 => full (2 * s.dec.d_acc.toNat)
      | .bit1 => full (2 * s.dec.d_acc.toNat + 1))

/-- R167: in `DRAIN` a PULSE changes no register but the strobe (R170), and only an END token or reset leaves `DRAIN`. -/
def Obligations.DrainIgnoresPulses : Prop :=
  (∀ (s : State) (lv : Level) (d : Nat), s.dec.check s.cfg = none → s.dec.d_phase = .drain →
    exec (.decPulse lv d) s = .next { s with dec := { s.dec with res_valid := false } }) ∧
  (∀ s t : State, s.dec.d_phase = .drain → step s = .next t → t.dec.d_phase ≠ .drain →
    ∃ p rest, s.pending = .cycle p :: rest ∧ (p.rst = true ∨ p.in_valid = true ∧ decodeToken s.cfg p.in_word = .decEnd))

/-- R171: END publishes `TOO_SHORT` for a burst of fewer than 82 pulses, an empty one among them, and nothing after a
full one; either way the next burst begins. -/
def Obligations.EndClosesBurst : Prop :=
  ∀ s : State, s.dec.check s.cfg = none →
    (s.dec.d_phase = .collect → exec .decEnd s = .next { s with dec :=
      ⟨.collect, 0, 0, 0, .none, 0, false, true, .tooShort, 0, 0, 0, 0, .unknown, s.dec.d_lvl⟩ }) ∧
    (s.dec.d_phase = .drain → exec .decEnd s = .next { s with dec := { s.dec with
      d_phase := .collect, d_cnt := 0, d_hi := 0, d_acc := 0, d_err := .none, d_eidx := 0, d_lvl := false,
      res_valid := false } })

/-- R168: an unexpected level sets `d_lvl` and is reported in `res_lvlerr`, and changes nothing else: the states after
either level agree in everything but those two. -/
def Obligations.LevelIsOnlyReported : Prop :=
  ∀ (s : State) (lv lv' : Level) (d : Nat), s.dec.check s.cfg = none → s.dec.d_phase = .collect →
    ∃ t t', exec (.decPulse lv d) s = .next t ∧ exec (.decPulse lv' d) s = .next t' ∧
      { t.dec with d_lvl := false, res_lvlerr := false } = { t'.dec with d_lvl := false, res_lvlerr := false } ∧
      (if s.dec.d_cnt.toNat = 81 then t.dec.res_lvlerr else t.dec.d_lvl) =
        (s.dec.d_lvl || lv != (if s.dec.d_cnt.toNat % 2 = 0 then .high else .low))

/-- R172: cycles without a token, however many, only drop the strobe, whatever the encoder does meanwhile. -/
def Obligations.DecoderKeepsStateWithoutTokens : Prop :=
  ∀ (s : State) (ps : List Ports) (rest : List Stimulus), s.Sound → ps ≠ [] →
    (∀ p ∈ ps, p.rst = false ∧ p.in_valid = false) → s.pending = ps.map .cycle ++ rest →
    ∃ t, Sys2Proof.core.run ps.length s = .next t ∧ t.pending = rest ∧ t.dec = { s.dec with res_valid := false }

/-- R38: a PULSE token changes no result register, unless it is the 82nd of its burst; it only drops the strobe. -/
def Obligations.PulseInsideBurstKeepsResult : Prop :=
  ∀ (s : State) (lv : Level) (d : Nat), s.dec.check s.cfg = none → s.dec.d_cnt.toNat ≠ 81 →
    ∃ t, exec (.decPulse lv d) s = .next t ∧ t.dec.res_valid = false ∧ t.dec.resultWord = s.dec.resultWord ∧
      t.enc = s.enc

/-- R41, R43, R165: in a cycle without reset the result registers change exactly at a publication, and the strobe
follows it: an END in `COLLECT` or the 82nd PULSE. -/
def Obligations.ResultChangesOnlyAtPublication : Prop :=
  ∀ (s t : State) (p : Ports) (rest : List Stimulus), s.pending = .cycle p :: rest → p.rst = false →
    step s = .next t →
    let publishes := p.in_valid = true ∧ s.dec.d_phase = .collect ∧
      (isEnd s.cfg p.in_word = true ∨ s.dec.d_cnt.toNat = 81)
    (t.dec.res_valid = true ↔ publishes) ∧ (¬ publishes → t.dec.resultWord = s.dec.resultWord)

/-- R42: after any step the registers say one of the five things the rule lists; `NONE` only before the first
publication. -/
def Obligations.FailedResultCarriesNoFrame : Prop :=
  ∀ s t : State, s.Sound → step s = .next t →
    let r := t.dec
    let noFrame := r.res_pilot = 0 ∧ r.res_roller = 0 ∧ r.res_cbyte = 0 ∧ r.res_cmd.code = 0
    (r.res_kind = .ok ∧ r.res_idx = 0 ∧ r.res_cmd = commandFromByte r.res_cbyte) ∨
    (r.res_kind = .bitError ∧ noFrame ∧ r.res_idx.toNat ≤ 39) ∨
    ((r.res_kind = .tooShort ∨ r.res_kind = .syncMismatch) ∧ noFrame ∧ r.res_idx = 0) ∨
    (r.res_kind = .none ∧ noFrame ∧ r.res_idx = 0 ∧ r.res_lvlerr = false ∧
      (s.dec.res_kind = .none ∨ ∃ p rest, s.pending = .cycle p :: rest ∧ p.rst = true))

/-- R94: the fields of the result word and the codes of the kinds; bits 39:0 of any result are Code40 of its fields;
5, 6 and 7 are not kinds of a sound state. -/
def Obligations.ResultWordLayout : Prop :=
  ∀ (c : Cfg) (r : Decoder), r.check c = none →
    r.resultWord.getLsbD 51 = r.res_lvlerr ∧ r.resultWord.extractLsb' 48 3 = r.res_kind.code ∧
    r.resultWord.extractLsb' 42 6 = r.res_idx ∧ r.resultWord.extractLsb' 40 2 = r.res_cmd.code ∧
    r.resultWord.extractLsb' 12 28 = r.res_pilot ∧ r.resultWord.extractLsb' 8 4 = r.res_roller ∧
    r.resultWord.extractLsb' 0 8 = r.res_cbyte ∧
    r.resultWord.extractLsb' 0 40 = join40 r.res_pilot r.res_roller r.res_cbyte ∧
    ((r.res_kind, r.res_kind.code) ∈
      [(ResKind.none, 0#3), (.ok, 1#3), (.tooShort, 2#3), (.syncMismatch, 3#3), (.bitError, 4#3)])

/-- R174, for every configuration: a burst of 82 pulses or more is reported at its 82nd pulse, a shorter one at its END,
and the report is `res(decode(s))` with the level violations of the pulses that count. -/
def Obligations.DecoderAgreesWithDecode : Prop :=
  ∀ (c : Cfg) (r : Decoder) (b : List Pulse), r.check c = none → r.d_phase = .collect → r.d_cnt = 0 →
    (82 ≤ b.length → ((r.feed c (b.take 82)).res_valid = true ∧ (r.feed c (b.take 82)).d_phase = .drain ∧
      (r.feed c (b.take 82)).Reports (decodeCode c b) (levelViolation b))) ∧
    (b.length < 82 → ((r.feed c b).endBurst.res_valid = true ∧ (r.feed c b).endBurst.d_phase = .collect ∧
      (r.feed c b).endBurst.d_cnt = 0 ∧ (r.feed c b).endBurst.Reports (decodeCode c b) (levelViolation b)))

/-- R174 at the ports: after the lines of any burst, its durations such as the port carries, and its END the result registers hold `res(decode(s))`, and the
decoder stands before the next burst. -/
def Obligations.EveryClosedBurstIsReported : Prop :=
  ∀ (s : State) (b : List Pulse) (rest : List Stimulus), s.Sound → s.dec.d_phase = .collect → s.dec.d_cnt = 0 →
    (∀ x ∈ b, s.cfg.fitsDur x.dur = true) →
    s.pending = b.map (fun x => Script.pulse s.cfg x.level x.dur) ++ Script.endLine s.cfg :: rest →
    ∃ t, Sys2Proof.core.run (b.length + 1) s = .next t ∧ t.pending = rest ∧ t.dec.d_phase = .collect ∧
      t.dec.d_cnt = 0 ∧ t.dec.Reports (decodeCode s.cfg b) (levelViolation b)

/-- R162 and the port form of R262: the 82 lines of `FRAME x` publish `OK` with `x` split into its fields, for every
Code40 `x` and every configuration whose nominal pairs fit their port and classify as their own symbols (R22): an
unrecognised command byte is no failure. -/
def Obligations.FrameLinesPublishTheirCode : Prop :=
  ∀ (s : State) (x : Code40) (rest : List Stimulus), s.Sound → s.dec.d_phase = .collect → s.dec.d_cnt = 0 →
    nominalsClassify s.cfg = true → s.cfg.nominals.all s.cfg.fitsDur = true →
    s.pending = Script.frame s.cfg x ++ rest →
    ∃ t, Sys2Proof.core.run 82 s = .next t ∧ t.pending = rest ∧ t.dec.res_valid = true ∧ t.dec.d_phase = .drain ∧
      t.dec.res_kind = .ok ∧ join40 t.dec.res_pilot t.dec.res_roller t.dec.res_cbyte = x ∧
      t.dec.res_cmd = commandFromByte (BitVec.ofNat 8 x.toNat) ∧ t.dec.res_lvlerr = false

/-- R161: `TooShort` before everything, then `SyncMismatch`, then the smallest invalid bit pair. -/
def Obligations.DecodeErrorPrecedence : Prop :=
  ∀ (c : Cfg) (b : List Pulse),
    (b.length < 82 → decodeFrame c b = .error .tooShort) ∧
    (82 ≤ b.length → classifySync c (durAt b 0) (durAt b 1) = false → decodeFrame c b = .error .syncMismatch) ∧
    (82 ≤ b.length → classifySync c (durAt b 0) (durAt b 1) = true → ∀ i < 40,
      classifyBit c (durAt b (2 + 2 * i)) (durAt b (3 + 2 * i)) = .invalid →
      (∀ j < i, classifyBit c (durAt b (2 + 2 * j)) (durAt b (3 + 2 * j)) ≠ .invalid) →
      decodeFrame c b = .error (.bitDecodeError i)) ∧
    (82 ≤ b.length → classifySync c (durAt b 0) (durAt b 1) = true →
      (∀ i < 40, classifyBit c (durAt b (2 + 2 * i)) (durAt b (3 + 2 * i)) ≠ .invalid) →
      ∃ f, decodeFrame c b = .ok f)

/-! ## The classifier and the mapper -/

/-- R120, R121, R140, R141, for every configuration: closed windows, each half in its own, bit 0 tested first. -/
def Obligations.ClassifierTestsBit0First : Prop :=
  ∀ (c : Cfg) (h l : Nat),
    let within (d : Nat) (w : Window) : Prop := w.min ≤ d ∧ d ≤ w.max
    (classifyBit c h l = .bit0 ↔ within h c.B0H ∧ within l c.B0L) ∧
    (classifyBit c h l = .bit1 ↔ ¬ (within h c.B0H ∧ within l c.B0L) ∧ within h c.B1H ∧ within l c.B1L) ∧
    (classifySync c h l = true ↔ within h c.SYH ∧ within l c.SYL)

/-- `CLASSIFY_BIT`, `CLASSIFY_SYNC`, `CMD_FROM_BYTE` and `BYTE_FROM_CMD` complete in every sound state, on every operand
and for every configuration, with the value of their function, and write no register. That they run as steps, and the
output field, are the model's own (log entry 4). -/
def Obligations.InternalFunctionsComplete : Prop :=
  ∀ (s : State) (h l : Nat) (b : CmdByte) (cmd : Command), s.Sound →
    exec (.classifyBit h l) s = .next { s with fn_out := .bitValue (classifyBit s.cfg h l) } ∧
    exec (.classifySync h l) s = .next { s with fn_out := .isSync (classifySync s.cfg h l) } ∧
    exec (.cmdFromByte b) s = .next { s with fn_out := .command (commandFromByte b) } ∧
    (∀ y, byteFromCommand cmd = .ok y → exec (.byteFromCmd cmd) s = .next { s with fn_out := .byte y }) ∧
    (∀ e, byteFromCommand cmd = .error e → exec (.byteFromCmd cmd) s = .next { s with fn_out := .byteError e })

/-- R145: with the default configuration, whatever its gap, `CLASSIFY_BIT` and `CLASSIFY_SYNC` complete on every pair of
durations with the results the rule tabulates. The output field is the model's own (log entry 4). -/
def Obligations.ClassifierRegions : Prop :=
  ∀ (s : State) (gap : BitVec Config.DUR_W) (h l : Nat), s.Sound → s.cfg = Config.withGap gap →
    let bit : BitValue :=
      if 240 ≤ h ∧ h ≤ 400 ∧ 570 ≤ l ∧ l ≤ 950 then .bit0
      else if 540 ≤ h ∧ h ≤ 900 ∧ 270 ≤ l ∧ l ≤ 450 then .bit1
      else .invalid
    let sync : Bool := decide (3570 ≤ h ∧ h ≤ 5950 ∧ 1140 ≤ l ∧ l ≤ 1900)
    exec (.classifyBit h l) s = .next { s with fn_out := .bitValue bit } ∧
    exec (.classifySync h l) s = .next { s with fn_out := .isSync sync }

/-- `CMD_FROM_BYTE` and `BYTE_FROM_CMD` complete in every sound state on every operand with the values of R220 and R221,
and write no register. The output field is the model's own (log entry 4). -/
def Obligations.MapperTable : Prop :=
  ∀ (s : State) (b : CmdByte), s.Sound →
    let cmd : Command :=
      if b.toNat = 0x11 then .up else if b.toNat = 0x33 then .down else if b.toNat = 0x55 then .stop else .unknown
    exec (.cmdFromByte b) s = .next { s with fn_out := .command cmd } ∧
    exec (.byteFromCmd .up) s = .next { s with fn_out := .byte 0x11 } ∧
    exec (.byteFromCmd .down) s = .next { s with fn_out := .byte 0x33 } ∧
    exec (.byteFromCmd .stop) s = .next { s with fn_out := .byte 0x55 } ∧
    exec (.byteFromCmd .unknown) s = .next { s with fn_out := .byteError .unknownCommand }

/-- R222: the two directions are inverse where the command has a byte. -/
def Obligations.MapperInverseLaws : Prop :=
  (∀ (c : Command) (b : CmdByte), byteFromCommand c = .ok b → commandFromByte b = c) ∧
  (∀ b : CmdByte, byteFromCommand (commandFromByte b) =
    if b.toNat = 0x11 ∨ b.toNat = 0x33 ∨ b.toNat = 0x55 then .ok b else .error .unknownCommand)

/-! ## The encoder's transactions -/

/-- R246 (with R242, R254): the command is checked before the repeat count; a rejected request changes only the status
registers; an accepted one starts with the sync pulse; outside `IDLE` a request is not taken. -/
def Obligations.RequestStartsOrEnds : Prop :=
  ∀ (s : State) (p : PilotId) (r : RollerId) (cmd : Command) (n : Nat), s.enc.check s.cfg = none →
    (s.enc.e_state = .idle → cmd = .unknown → exec (.encReq p r cmd n) s =
      .next { s with enc := { s.enc with enc_done := true, enc_code := .unknownCommand } }) ∧
    (s.enc.e_state = .idle → cmd ≠ .unknown → n = 0 → exec (.encReq p r cmd n) s =
      .next { s with enc := { s.enc with enc_done := true, enc_code := .badRepeat } }) ∧
    (s.enc.e_state = .idle → n ≠ 0 → ∀ cb : CmdByte,
      (cmd, cb) ∈ [(Command.up, 0x11#8), (.down, 0x33#8), (.stop, 0x55#8)] → exec (.encReq p r cmd n) s =
      .next { s with enc := { s.enc with
        e_state := .syncH, e_code := BitVec.ofNat 40 (p.toNat * 2 ^ 12 + r.toNat * 2 ^ 8 + cb.toNat),
        e_bit := 0, e_rep := n, enc_done := false } }) ∧
    (s.enc.e_state ≠ .idle → exec (.encReq p r cmd n) s =
      .next { s with enc := { s.enc with enc_done := false } })

/-- R247: the transition of each state on a handshake; the encoding ends exactly when the element taken was the last
one; in `IDLE` nothing is taken. -/
def Obligations.HandshakeAdvancesSerializer : Prop :=
  ∀ s : State, s.enc.check s.cfg = none →
    (s.enc.e_state = .idle → exec .encAck s = .next { s with enc := { s.enc with enc_done := false } }) ∧
    (s.enc.e_state = .syncH → exec .encAck s =
      .next { s with enc := { s.enc with e_state := .syncL, enc_done := false } }) ∧
    (s.enc.e_state = .syncL → exec .encAck s =
      .next { s with enc := { s.enc with e_state := .bitH, enc_done := false } }) ∧
    (s.enc.e_state = .bitH → exec .encAck s =
      .next { s with enc := { s.enc with e_state := .bitL, enc_done := false } }) ∧
    (s.enc.e_state = .bitL → s.enc.e_bit.toNat < 39 → exec .encAck s =
      .next { s with enc := { s.enc with e_state := .bitH, e_bit := s.enc.e_bit + 1, enc_done := false } }) ∧
    (s.enc.e_state = .bitL → s.enc.e_bit = 39 → 1 < s.enc.e_rep → exec .encAck s =
      .next { s with enc := { s.enc with e_state := .gap, enc_done := false } }) ∧
    (s.enc.e_state = .bitL → s.enc.e_bit = 39 → s.enc.e_rep = 1 → exec .encAck s =
      .next { s with enc := { s.enc with
        e_state := .idle, e_bit := 0, e_rep := 0, enc_done := true, enc_code := .ok } }) ∧
    (s.enc.e_state = .gap → exec .encAck s =
      .next { s with enc := { s.enc with
        e_state := .syncH, e_bit := 0, e_rep := s.enc.e_rep - 1, enc_done := false } }) ∧
    (s.enc.e_state ≠ .idle → ∃ x t, s.enc.offered s.cfg = some x ∧ exec .encAck s = .next t ∧
      t.enc.enc_done = x.last)

/-- R251: the element offered in each state, and zeros in `IDLE`. -/
def Obligations.OutputFunction : Prop :=
  ∀ (c : Cfg) (e : Encoder), e.e_bit.toNat ≤ 39 →
    let b := e.e_code.getLsbD (39 - e.e_bit.toNat)
    (e.outValid = true ↔ e.e_state ≠ .idle) ∧
    (e.e_state = .syncH → e.element c = some ⟨c.SYH_NOM, .high, false, false⟩) ∧
    (e.e_state = .syncL → e.element c = some ⟨c.SYL_NOM, .low, false, false⟩) ∧
    (e.e_state = .bitH → e.element c = some ⟨if b then c.B1H_NOM else c.B0H_NOM, .high, false, false⟩) ∧
    (e.e_state = .bitL → e.element c = some ⟨if b then c.B1L_NOM else c.B0L_NOM, .low, false,
      decide (e.e_bit.toNat = 39 ∧ e.e_rep = 1)⟩) ∧
    (e.e_state = .gap → e.element c = some ⟨c.GAP_US, .low, true, false⟩) ∧
    (e.e_state = .idle → e.element c = some ⟨0, .low, false, false⟩)

/-- R248 (and R252): cycles in which the encoder takes nothing, however many, only drop the strobe, and the element
offered stays the same, whatever the decoder does meanwhile. -/
def Obligations.ElementHeldUntilTaken : Prop :=
  ∀ (s : State) (ps : List Ports) (rest : List Stimulus), s.Sound → ps ≠ [] →
    (∀ p ∈ ps, p.rst = false ∧ (if s.enc.e_state = .idle then p.req_valid else p.out_ready) = false) →
    s.pending = ps.map .cycle ++ rest →
    ∃ t, Sys2Proof.core.run ps.length s = .next t ∧ t.pending = rest ∧
      t.enc = { s.enc with enc_done := false } ∧ ∀ c : Cfg, t.enc.element c = s.enc.element c

/-- R249: `enc_code` is written by reset and exactly by the three endings, and holds in every other cycle; `enc_done`
is 1 after a cycle exactly if it brought one of the three. -/
def Obligations.EncoderStatusOnlyAtEndings : Prop :=
  ∀ (s t : State) (p : Ports), clockEdge p s = .next t →
    (p.rst = true → t.enc.enc_done = false ∧ t.enc.enc_code = .none) ∧
    (p.rst = false →
      let taken := s.enc.e_state = .idle ∧ p.req_valid = true
      let unknown := taken ∧ p.req_word / 2 ^ 32 % 2 ^ 2 = 0
      let badRepeat := taken ∧ p.req_word / 2 ^ 32 % 2 ^ 2 ≠ 0 ∧ p.req_word / 2 ^ 34 % 2 ^ s.cfg.R_W = 0
      let lastTaken := s.enc.e_state = .bitL ∧ s.enc.e_bit = 39 ∧ s.enc.e_rep = 1 ∧ p.out_ready = true
      (unknown → t.enc.enc_code = .unknownCommand) ∧ (badRepeat → t.enc.enc_code = .badRepeat) ∧
      (lastTaken → t.enc.enc_code = .ok) ∧
      (t.enc.enc_done = true ↔ unknown ∨ badRepeat ∨ lastTaken) ∧
      (¬ (unknown ∨ badRepeat ∨ lastTaken) → t.enc.enc_code = s.enc.enc_code))

/-- R244: an encoding has `83n - 1` elements: gaps exactly at the positions `83r + 82`, `last` exactly on the final
element, and everywhere else the elements of `frame(code)`. -/
def Obligations.EncodedSequenceShape : Prop :=
  ∀ (c : Cfg) (p : PilotId) (r : RollerId) (cmd : Command) (cb : CmdByte) (n : Nat), 1 ≤ n →
    byteFromCommand cmd = .ok cb →
    ∃ seq, encodeFrame c p r cmd n = .ok seq ∧ seq.length = 83 * n - 1 ∧
      (frameElements c (join40 p r cb)).length = 82 ∧
      ∀ (k : Nat) (x : Element), seq[k]? = some x →
        (x.gap = true ↔ k % 83 = 82) ∧ (x.last = true ↔ k = 83 * n - 2) ∧
        (k % 83 < 82 → (frameElements c (join40 p r cb))[k % 83]? = some { x with last := false }) ∧
        (k % 83 = 82 → x = ⟨c.GAP_US, .low, true, false⟩)

/-- R255, for every configuration: the elements taken by successive handshakes are those of `encode`, in order, and
after the last of them `enc_code` is `E_OK`; an `Err` offers no element and is reported in `enc_code`. -/
def Obligations.EncoderAgreesWithEncode : Prop :=
  ∀ (c : Cfg) (e : Encoder) (p : PilotId) (r : RollerId) (cmd : Command) (n : Nat),
    e.check c = none → e.e_state = .idle →
    let e' := e.request p r cmd n
    match encodeFrame c p r cmd n with
    | .ok seq =>
      (∀ (k : Nat) (x : Element), seq[k]? = some x → (Encoder.ack^[k] e').offered c = some x) ∧
      (Encoder.ack^[seq.length] e').e_state = .idle ∧ (Encoder.ack^[seq.length] e').enc_done = true ∧
      (Encoder.ack^[seq.length] e').enc_code = .ok
    | .error .unknownCommand => e'.offered c = none ∧ e'.enc_done = true ∧ e'.enc_code = .unknownCommand
    | .error .badRepeat => e'.offered c = none ∧ e'.enc_done = true ∧ e'.enc_code = .badRepeat

/-- R256 at the ports: with `out_ready` held 1, a request taken in one cycle has its encoding ended `83n` cycles later,
with the strobe and `E_OK`, whatever tokens the decoder is given meanwhile. -/
def Obligations.EncodingTakes83nCycles : Prop :=
  ∀ (s : State) (q : Ports) (ps : List Ports) (rest : List Stimulus) (p : PilotId) (r : RollerId) (cmd : Command)
    (cb : CmdByte) (n : Nat), s.Sound → s.enc.e_state = .idle → q.rst = false → q.req_valid = true →
    decodeRequest s.cfg q.req_word = .encReq p r cmd n → byteFromCommand cmd = .ok cb → n ≠ 0 →
    ps.length = 83 * n - 1 → (∀ x ∈ ps, x.rst = false ∧ x.out_ready = true) →
    s.pending = .cycle q :: (ps.map .cycle ++ rest) →
    ∃ t, Sys2Proof.core.run (83 * n) s = .next t ∧ t.pending = rest ∧
      t.enc = ⟨.idle, join40 p r cb, 0, 0, true, .ok⟩

/-! ## The frame, the configuration and the encodings -/

/-- R80–R82: the fields do not overlap, splitting undoes joining, and joining undoes splitting. -/
def Obligations.SplitAndJoinAreInverse : Prop :=
  (∀ (p : PilotId) (r : RollerId) (c : CmdByte), (join40 p r c).toNat = p.toNat * 2 ^ 12 + r.toNat * 2 ^ 8 + c.toNat ∧
    pilotOf (join40 p r c) = p ∧ rollerOf (join40 p r c) = r ∧ cbyteOf (join40 p r c) = c) ∧
  (∀ x : Code40, join40 (pilotOf x) (rollerOf x) (cbyteOf x) = x ∧ (pilotOf x).toNat = x.toNat / 2 ^ 12 ∧
    (rollerOf x).toNat = x.toNat / 2 ^ 8 % 16 ∧ (cbyteOf x).toNat = x.toNat % 256)

/-- R262: "`decode(encode(pilot_id, roller_id, command, 1)) == Ok(DecodedFrame{pilot_id, roller_id, command})`" for
every configuration whose nominal pairs classify as their own symbols (R22 W3). -/
def Obligations.RoundTripLaw : Prop :=
  ∀ (c : Cfg) (p : PilotId) (r : RollerId) (cmd : Command), nominalsClassify c = true → cmd ≠ .unknown →
    ∃ seq, encodeFrame c p r cmd 1 = .ok seq ∧ decodeFrame c (seq.map Element.pulse) = .ok ⟨p, r, cmd⟩

/-- R21 with R22 and R122: the default widths, nominal durations and windows for any gap duration; the windows are the 25
percent ones of R122, and the configuration is well formed. That `State.reset` is elaborated with it, and with the free
gap value, is the model's own choice (log entries 2 and 1). -/
def Obligations.DefaultConfiguration : Prop :=
  State.reset = State.resetWith Config.cfg ∧ Config.cfg = Config.withGap Config.gapUs ∧
  ∀ gap : BitVec Config.DUR_W,
    let c := Config.withGap gap
    let quarter (nom : Nat) : Window := ⟨nom - nom * 25 / 100, nom + nom * 25 / 100⟩
    (c.DUR_W, c.R_W) = (16, 8) ∧
    (c.SYH_NOM, c.SYL_NOM, c.B0H_NOM, c.B0L_NOM, c.B1H_NOM, c.B1L_NOM) = (4760, 1520, 320, 760, 720, 360) ∧
    (c.SYH, c.SYL, c.B0H, c.B0L, c.B1H, c.B1L) =
      (quarter c.SYH_NOM, quarter c.SYL_NOM, quarter c.B0H_NOM, quarter c.B0L_NOM, quarter c.B1H_NOM, quarter c.B1L_NOM) ∧
    (c.SYH, c.SYL, c.B0H, c.B0L, c.B1H, c.B1L) =
      (⟨3570, 5950⟩, ⟨1140, 1900⟩, ⟨240, 400⟩, ⟨570, 950⟩, ⟨540, 900⟩, ⟨270, 450⟩) ∧
    c.GAP_US = gap.toNat ∧ c.wellFormed = true

/-- For every configuration, every transaction whose operands fit their ports is read back from its word, and the word
fits its port. -/
def Obligations.DecodeEncode : Prop :=
  ∀ (c : Cfg) (i : Instr), i.operandsFit c = true → decode c (encode c i) = .ok i ∧ (encode c i).onPort c = true

/-- For every configuration, a port word that is a transaction is the word that transaction encodes to, but for the
ignored bits of an END (R89), so no two transactions share a word of one port; and its operands fit. -/
def Obligations.EncodeDecode : Prop :=
  ∀ (c : Cfg) (w : PortWord) (i : Instr), w.onPort c = true → decode c w = .ok i →
    i.operandsFit c = true ∧ (encode c i = w ∨ (i = .decEnd ∧ ∃ t : Nat, w = .token t ∧ isEnd c t = true))

/-- Words the spec writes out (R88, R100 and the vectors of 95), at the default widths: each decodes to the transaction it
stands for. -/
def Obligations.WrittenWordsDecode : Prop :=
  let d := decode Config.cfg
  d (.token 0x11298) = .ok (.decPulse .high 4760) ∧ d (.token 0x005F0) = .ok (.decPulse .low 1520) ∧
  d (.token 0x20000) = .ok .decEnd ∧ d (.request 0x530ABCDEF) = .ok (.encReq 0x0ABCDEF 3 .up 1) ∧
  d (.request 0xBF0000001) = .ok (.encReq 1 0xF .stop 2) ∧ d (.outReady 1) = .ok .encAck ∧
  d (.rst 1) = .ok .reset ∧ d (.call (.classifyBit 0x014002F8)) = .ok (.classifyBit 320 760) ∧
  d (.call (.classifySync 0x129805F0)) = .ok (.classifySync 4760 1520) ∧
  d (.call (.cmdFromByte 0x33)) = .ok (.cmdFromByte 0x33) ∧
  d (.call (.byteFromCmd 3)) = .ok (.byteFromCmd .stop)

/-- `ACK*` of R100, in every sound state and for every configuration. While an encoding runs, it is one cycle with
`out_ready = 1` for each element still to take (from the first element of an encoding, `83 * e_rep - 1`, R256): each
cycle offers an element, only the last of them has `last = 1`, and the encoding has ended after it (R247).
That it is empty where `enc_done` stands, and names no cycles where no encoding runs, is the model's reading (log
entry 14). -/
def Obligations.AckStarTakesEveryElementLeft : Prop :=
  ∀ (s : State) (rest : List Stimulus), s.Sound →
    (s.enc.enc_done = true → Script.ackStar s.cfg s.enc = some []) ∧
    (s.enc.e_state = .idle → s.enc.enc_done = false → Script.ackStar s.cfg s.enc = none) ∧
    (s.enc.e_state ≠ .idle → ∃ k, Script.ackStar s.cfg s.enc = some (List.replicate (k + 1) (Script.ack s.cfg)) ∧
      (s.enc.e_state = .syncH → k + 1 = 83 * s.enc.e_rep - 1) ∧
      let s' : State := { s with pending := List.replicate (k + 1) (Script.ack s.cfg) ++ rest }
      (∀ j ≤ k, ∃ u x, Sys2Proof.core.run j s' = .next u ∧ u.enc.offered u.cfg = some x ∧ x.last = decide (j = k)) ∧
      ∃ t, Sys2Proof.core.run (k + 1) s' = .next t ∧ t.pending = rest ∧
        t.enc = ⟨.idle, s.enc.e_code, 0, 0, true, .ok⟩)
end

