-- ==== Sys2Proof/Laws/Operands.lean ====
section
/-! SUPPORT. The operand functions as arithmetic on numbers. -/

namespace Sys2Proof.Machine

theorem oddIndex_eq (cnt : BitVec 7) : oddIndex cnt = decide (cnt.toNat % 2 = 1) := by
  unfold oddIndex
  simp only [BitVec.getLsbD, Nat.testBit, Nat.shiftRight_zero, Nat.and_comm 1, Nat.and_one_is_mod]
  rcases Nat.mod_two_eq_zero_or_one cnt.toNat with h | h <;> simp [h]

theorem expectedLevel_eq (cnt : BitVec 7) : expectedLevel cnt = if cnt.toNat % 2 = 0 then .high else .low := by
  unfold expectedLevel
  rw [oddIndex_eq]
  rcases Nat.mod_two_eq_zero_or_one cnt.toNat with h | h <;> simp [h]

/-- R166's `i = (k - 3) / 2`, for the indices it is used at. -/
theorem bitIndexOf_eq {cnt : BitVec 7} (h3 : 3 ≤ cnt.toNat) (h81 : cnt.toNat ≤ 81) :
    bitIndexOf cnt = BitVec.ofNat 6 ((cnt.toNat - 3) / 2) := by
  have h : (cnt - 3#7).toNat = cnt.toNat - 3 := by bv_omega
  apply BitVec.eq_of_toNat_eq
  simp only [bitIndexOf, BitVec.toNat_setWidth, BitVec.toNat_ushiftRight, Nat.shiftRight_eq_div_pow, BitVec.toNat_ofNat,
    BitVec.ofNat_eq_ofNat, h]

/-- R166's `trunc_40((acc << 1) | b)` as a number: the two terms do not overlap. -/
theorem shiftIn_eq (acc : Code40) (b : Bool) : shiftIn acc b = BitVec.ofNat 40 (2 * acc.toNat + b.toNat) := by
  have disjoint : (acc <<< 1) &&& (BitVec.ofBool b).setWidth 40 = 0#40 := by
    ext i hi
    cases b <;> simp
    omega
  rw [shiftIn, ← BitVec.add_eq_or_of_and_eq_zero _ _ disjoint]
  apply BitVec.eq_of_toNat_eq
  cases b <;> simp [Nat.shiftLeft_eq] <;> omega

end Sys2Proof.Machine
end

