-- ==== Sys2Proof/Laws/Reach.lean ====
section
/-! SUPPORT. The turning points decide for all durations, and what a register check that passes says. -/

namespace Sys2Proof.Machine

/-! ## Turning points -/

/-- Two durations that every comparator of the configuration treats alike. -/
def AcceptedAlike (c : Cfg) (d d' : Nat) : Prop := ∀ w ∈ c.windows, accept d w = accept d' w

/-- A test that sees durations through the comparators only. -/
def SeesWindows (c : Cfg) (test : PairTest) : Prop :=
  ∀ h h' l l', AcceptedAlike c h h' → AcceptedAlike c l l' → test h l = test h' l'

theorem seesWindows_sync (c : Cfg) : SeesWindows c (isSyncPair c) := by
  intro h h' l l' hh hl
  simp only [isSyncPair, classifySync, acceptPair]
  rw [hh c.SYH (by simp [Cfg.windows]), hl c.SYL (by simp [Cfg.windows])]

theorem seesWindows_noSync (c : Cfg) : SeesWindows c (isNoSyncPair c) := fun h h' l l' hh hl =>
  congrArg not (seesWindows_sync c h h' l l' hh hl)

theorem seesWindows_bit (c : Cfg) (v : BitValue) : SeesWindows c (isBitPair c v) := by
  intro h h' l l' hh hl
  have h0 : acceptPair h l c.B0H c.B0L = acceptPair h' l' c.B0H c.B0L := by
    rw [acceptPair, hh c.B0H (by simp [Cfg.windows]), hl c.B0L (by simp [Cfg.windows]), acceptPair]
  have h1 : acceptPair h l c.B1H c.B1L = acceptPair h' l' c.B1H c.B1L := by
    rw [acceptPair, hh c.B1H (by simp [Cfg.windows]), hl c.B1L (by simp [Cfg.windows]), acceptPair]
  simp only [isBitPair, classifyBit, h0, h1]

theorem AcceptedAlike.refl (c : Cfg) (d : Nat) : AcceptedAlike c d d := fun _ _ => rfl

/-- A list with a member below `d` has a greatest one. -/
theorem exists_greatest_le (l : List Nat) (d : Nat) (h : ∃ x ∈ l, x ≤ d) : ∃ x ∈ l, x ≤ d ∧ ∀ y ∈ l, y ≤ d → y ≤ x := by
  induction l with
  | nil => simp at h
  | cons a t ih =>
    by_cases ht : ∃ x ∈ t, x ≤ d
    · obtain ⟨x, hx, hxd, hm⟩ := ih ht
      by_cases ha : a ≤ d ∧ x < a
      · exact ⟨a, by simp, ha.1, fun y hy hyd => by
          rcases List.mem_cons.1 hy with rfl | hy
          · exact le_rfl
          · exact (hm y hy hyd).trans ha.2.le⟩
      · exact ⟨x, List.mem_cons_of_mem _ hx, hxd, fun y hy hyd => by
          rcases List.mem_cons.1 hy with rfl | hy
          · omega
          · exact hm y hy hyd⟩
    · obtain ⟨x, hx, hxd⟩ := h
      rcases List.mem_cons.1 hx with rfl | hx
      · exact ⟨x, by simp, hxd, fun y hy hyd => by
          rcases List.mem_cons.1 hy with rfl | hy
          · exact le_rfl
          · exact absurd ⟨y, hy, hyd⟩ ht⟩
      · exact absurd ⟨x, hx, hxd⟩ ht

/-- Every duration is treated like a turning point that is not above it. -/
theorem exists_turningPoint (c : Cfg) (d : Nat) : ∃ p ∈ turningPoints c, p ≤ d ∧ AcceptedAlike c d p := by
  obtain ⟨p, hp, hpd, hm⟩ := exists_greatest_le (turningPoints c) d ⟨0, by simp [turningPoints], Nat.zero_le d⟩
  refine ⟨p, hp, hpd, fun w hw => ?_⟩
  have hmin := hm w.min (List.mem_cons_of_mem _ (List.mem_flatMap.2 ⟨w, hw, by simp⟩))
  have hmax := hm (w.max + 1) (List.mem_cons_of_mem _ (List.mem_flatMap.2 ⟨w, hw, by simp⟩))
  rw [Bool.eq_iff_iff]
  simp only [accept, Bool.and_eq_true, decide_eq_true_eq]
  exact ⟨fun h => ⟨hmin h.1, hpd.trans h.2⟩, fun h => ⟨h.1.trans hpd, by
    by_contra hd
    exact absurd (hmax (by omega)) (by omega)⟩⟩

/-- `someLow` answers for every low duration the port can carry. -/
theorem someLow_iff {c : Cfg} {test : PairTest} (hs : SeesWindows c test) (h : Nat) :
    someLow c test h = true ↔ ∃ l, c.fitsDur l = true ∧ test h l = true := by
  simp only [someLow, List.any_eq_true, Bool.and_eq_true]
  constructor
  · rintro ⟨l, -, hl⟩
    exact ⟨l, hl⟩
  · rintro ⟨l, hfit, hl⟩
    obtain ⟨p, hp, hpl, ha⟩ := exists_turningPoint c l
    refine ⟨p, hp, ?_, hs h h l p (.refl c h) ha ▸ hl⟩
    simp only [Cfg.fitsDur, decide_eq_true_eq] at hfit ⊢
    exact hpl.trans_lt hfit

/-- `somePair` answers for every pair the port can carry. -/
theorem somePair_iff {c : Cfg} {test : PairTest} (hs : SeesWindows c test) :
    somePair c test = true ↔ ∃ h l, c.fitsDur h = true ∧ c.fitsDur l = true ∧ test h l = true := by
  simp only [somePair, List.any_eq_true, Bool.and_eq_true]
  constructor
  · rintro ⟨h, -, hh, hl⟩
    obtain ⟨l, hl⟩ := (someLow_iff hs h).1 hl
    exact ⟨h, l, hh, hl⟩
  · rintro ⟨h, l, hh, hfit, hl⟩
    obtain ⟨p, hp, hph, ha⟩ := exists_turningPoint c h
    refine ⟨p, hp, ?_, (someLow_iff hs p).2 ⟨l, hfit, hs h p l l ha (.refl c l) ▸ hl⟩⟩
    simp only [Cfg.fitsDur, decide_eq_true_eq] at hh ⊢
    exact hph.trans_lt hh

/-- A pair that passes a test shows that one exists. -/
theorem somePair_of_pair {c : Cfg} {test : PairTest} (hs : SeesWindows c test) {h l : Nat} (hh : c.fitsDur h = true)
    (hl : c.fitsDur l = true) (ht : test h l = true) : somePair c test = true := (somePair_iff hs).2 ⟨h, l, hh, hl, ht⟩

/-! ## The parts of the checks, as propositions -/

theorem carries_iff {c : Cfg} {n : Nat} {acc : Code40} :
    carries c n acc = true ↔ acc.toNat < 2 ^ n ∧
      (somePair c (isBitPair c .bit0) = true ∨ acc.toNat = 2 ^ n - 1) ∧
      (somePair c (isBitPair c .bit1) = true ∨ acc.toNat = 0) := by
  simp [carries, and_assoc]

theorem carries_zero (c : Cfg) : carries c 0 0#40 = true := by simp [carries]

theorem Decoder.cleanBurst_iff {c : Cfg} {r : Decoder} :
    r.cleanBurst c = true ↔
      r.d_eidx = 0 ∧ carries c ((r.d_cnt.toNat - 2) / 2) r.d_acc = true ∧
      (2 ≤ r.d_cnt.toNat → somePair c (isSyncPair c) = true) ∧
      (r.d_cnt = 2 → someLow c (isSyncPair c) r.d_hi = true) ∧
      (2 < r.d_cnt.toNat → r.d_cnt.toNat % 2 = 0 →
        someLow c (isBitPair c (.ofBool (r.d_acc.getLsbD 0))) r.d_hi = true) := by
  rw [Decoder.cleanBurst, decide_eq_true_eq]

theorem Decoder.syncFailed_iff {c : Cfg} {r : Decoder} :
    r.syncFailed c = true ↔
      r.d_eidx = 0 ∧ r.d_acc = 0 ∧ 2 ≤ r.d_cnt.toNat ∧ somePair c (isNoSyncPair c) = true ∧
      (r.d_cnt = 2 → someLow c (isNoSyncPair c) r.d_hi = true) := by
  rw [Decoder.syncFailed, decide_eq_true_eq]

theorem Decoder.bitFailed_iff {c : Cfg} {r : Decoder} :
    r.bitFailed c = true ↔
      2 * r.d_eidx.toNat + 4 ≤ r.d_cnt.toNat ∧ carries c r.d_eidx.toNat r.d_acc = true ∧
      somePair c (isSyncPair c) = true ∧ somePair c (isBitPair c .invalid) = true ∧
      (r.d_cnt.toNat = 2 * r.d_eidx.toNat + 4 → someLow c (isBitPair c .invalid) r.d_hi = true) := by
  rw [Decoder.bitFailed, decide_eq_true_eq]

/-! ## The checks (R314) -/

/-- What a decoder that may step satisfies. -/
theorem Decoder.check_eq_none {c : Cfg} {r : Decoder} :
    r.check c = none ↔
      r.d_err ≠ .code3 ∧ r.d_cnt.toNat ≤ 81 ∧ r.d_eidx.toNat ≤ 39 ∧
      (r.res_kind ≠ .code5 ∧ r.res_kind ≠ .code6 ∧ r.res_kind ≠ .code7) ∧ r.BurstSound c ∧ r.ResultSound c := by
  unfold Decoder.check
  split_ifs with h1 h2 h3 h4 h5
  · exact iff_of_false nofun fun h => h.1 h1
  · exact iff_of_false nofun fun h => absurd h.2.1 (by omega)
  · exact iff_of_false nofun fun h => absurd h.2.2.1 (by omega)
  · exact iff_of_false nofun fun h => by
      obtain ⟨-, -, -, ⟨h5, h6, h7⟩, -⟩ := h
      exact h4.elim h5 fun h => h.elim h6 h7
  · refine iff_of_true rfl ⟨h1, by omega, by omega, by simpa only [not_or] using h4, ?_⟩
    simpa only [Bool.and_eq_true, decide_eq_true_eq] using h5
  · refine iff_of_false nofun fun h => h5 ?_
    simpa only [Bool.and_eq_true, decide_eq_true_eq] using h.2.2.2.2

/-- What an encoder that may step satisfies. -/
theorem Encoder.check_eq_none {c : Cfg} {e : Encoder} :
    e.check c = none ↔
      (e.e_state ≠ .code6 ∧ e.e_state ≠ .code7) ∧ e.e_bit.toNat ≤ 39 ∧ e.Sound c := by
  unfold Encoder.check
  split_ifs with h1 h2 h3
  · exact iff_of_false nofun fun h => h1.elim h.1.1 h.1.2
  · exact iff_of_false nofun fun h => absurd h.2.1 (by omega)
  · exact iff_of_true rfl ⟨by simpa only [not_or] using h1, by omega, h3⟩
  · exact iff_of_false nofun fun h => h3 h.2.2

theorem State.check_eq_none {s : State} : s.check = none ↔ s.dec.check s.cfg = none ∧ s.enc.check s.cfg = none := by
  unfold State.check
  split <;> simp_all

end Sys2Proof.Machine
end

