-- ==== Sys2Proof/Laws/State.lean ====
section
/-! SUPPORT. One lemma for each field under each shared update of the registers, so that no later proof unfolds a
record update. -/

namespace Sys2Proof.Machine

/-! ## `Decoder.idle` (R172) -/

@[simp] theorem Decoder.idle_d_phase (r : Decoder) : r.idle.d_phase = r.d_phase := rfl
@[simp] theorem Decoder.idle_d_cnt (r : Decoder) : r.idle.d_cnt = r.d_cnt := rfl
@[simp] theorem Decoder.idle_d_hi (r : Decoder) : r.idle.d_hi = r.d_hi := rfl
@[simp] theorem Decoder.idle_d_acc (r : Decoder) : r.idle.d_acc = r.d_acc := rfl
@[simp] theorem Decoder.idle_d_err (r : Decoder) : r.idle.d_err = r.d_err := rfl
@[simp] theorem Decoder.idle_d_eidx (r : Decoder) : r.idle.d_eidx = r.d_eidx := rfl
@[simp] theorem Decoder.idle_d_lvl (r : Decoder) : r.idle.d_lvl = r.d_lvl := rfl
@[simp] theorem Decoder.idle_res_valid (r : Decoder) : r.idle.res_valid = false := rfl
@[simp] theorem Decoder.idle_res_kind (r : Decoder) : r.idle.res_kind = r.res_kind := rfl
@[simp] theorem Decoder.idle_res_idx (r : Decoder) : r.idle.res_idx = r.res_idx := rfl
@[simp] theorem Decoder.idle_res_pilot (r : Decoder) : r.idle.res_pilot = r.res_pilot := rfl
@[simp] theorem Decoder.idle_res_roller (r : Decoder) : r.idle.res_roller = r.res_roller := rfl
@[simp] theorem Decoder.idle_res_cbyte (r : Decoder) : r.idle.res_cbyte = r.res_cbyte := rfl
@[simp] theorem Decoder.idle_res_cmd (r : Decoder) : r.idle.res_cmd = r.res_cmd := rfl
@[simp] theorem Decoder.idle_res_lvlerr (r : Decoder) : r.idle.res_lvlerr = r.res_lvlerr := rfl

/-! ## `Decoder.clearBurst` (R169) -/

@[simp] theorem Decoder.clearBurst_d_phase (r : Decoder) : r.clearBurst.d_phase = r.d_phase := rfl
@[simp] theorem Decoder.clearBurst_d_cnt (r : Decoder) : r.clearBurst.d_cnt = 0 := rfl
@[simp] theorem Decoder.clearBurst_d_hi (r : Decoder) : r.clearBurst.d_hi = 0 := rfl
@[simp] theorem Decoder.clearBurst_d_acc (r : Decoder) : r.clearBurst.d_acc = 0 := rfl
@[simp] theorem Decoder.clearBurst_d_err (r : Decoder) : r.clearBurst.d_err = .none := rfl
@[simp] theorem Decoder.clearBurst_d_eidx (r : Decoder) : r.clearBurst.d_eidx = 0 := rfl
@[simp] theorem Decoder.clearBurst_d_lvl (r : Decoder) : r.clearBurst.d_lvl = false := rfl
@[simp] theorem Decoder.clearBurst_res_valid (r : Decoder) : r.clearBurst.res_valid = r.res_valid := rfl
@[simp] theorem Decoder.clearBurst_res_kind (r : Decoder) : r.clearBurst.res_kind = r.res_kind := rfl
@[simp] theorem Decoder.clearBurst_res_idx (r : Decoder) : r.clearBurst.res_idx = r.res_idx := rfl
@[simp] theorem Decoder.clearBurst_res_pilot (r : Decoder) : r.clearBurst.res_pilot = r.res_pilot := rfl
@[simp] theorem Decoder.clearBurst_res_roller (r : Decoder) : r.clearBurst.res_roller = r.res_roller := rfl
@[simp] theorem Decoder.clearBurst_res_cbyte (r : Decoder) : r.clearBurst.res_cbyte = r.res_cbyte := rfl
@[simp] theorem Decoder.clearBurst_res_cmd (r : Decoder) : r.clearBurst.res_cmd = r.res_cmd := rfl
@[simp] theorem Decoder.clearBurst_res_lvlerr (r : Decoder) : r.clearBurst.res_lvlerr = r.res_lvlerr := rfl

@[simp] theorem Decoder.clearBurst_clearBurst (r : Decoder) : r.clearBurst.clearBurst = r.clearBurst := rfl

/-! ## `Decoder.publish` (R169) -/

section Publish

variable (k : ResKind) (i : BitVec 6) (a : Code40) (l : Bool) (r : Decoder)

@[simp] theorem Decoder.publish_d_phase :
    (r.publish k i a l).d_phase = r.d_phase := by
  cases k <;> rfl
@[simp] theorem Decoder.publish_d_cnt :
    (r.publish k i a l).d_cnt = r.d_cnt := by
  cases k <;> rfl
@[simp] theorem Decoder.publish_d_hi :
    (r.publish k i a l).d_hi = r.d_hi := by
  cases k <;> rfl
@[simp] theorem Decoder.publish_d_acc :
    (r.publish k i a l).d_acc = r.d_acc := by
  cases k <;> rfl
@[simp] theorem Decoder.publish_d_err :
    (r.publish k i a l).d_err = r.d_err := by
  cases k <;> rfl
@[simp] theorem Decoder.publish_d_eidx :
    (r.publish k i a l).d_eidx = r.d_eidx := by
  cases k <;> rfl
@[simp] theorem Decoder.publish_d_lvl :
    (r.publish k i a l).d_lvl = r.d_lvl := by
  cases k <;> rfl
@[simp] theorem Decoder.publish_res_valid :
    (r.publish k i a l).res_valid = true := by
  cases k <;> rfl
@[simp] theorem Decoder.publish_res_kind :
    (r.publish k i a l).res_kind = k := by
  cases k <;> rfl
@[simp] theorem Decoder.publish_res_idx :
    (r.publish k i a l).res_idx = if k = .bitError then i else 0 := by
  cases k <;> rfl
@[simp] theorem Decoder.publish_res_pilot :
    (r.publish k i a l).res_pilot = if k = .ok then pilotOf a else 0 := by
  cases k <;> rfl
@[simp] theorem Decoder.publish_res_roller :
    (r.publish k i a l).res_roller = if k = .ok then rollerOf a else 0 := by
  cases k <;> rfl
@[simp] theorem Decoder.publish_res_cbyte :
    (r.publish k i a l).res_cbyte = if k = .ok then cbyteOf a else 0 := by
  cases k <;> rfl
@[simp] theorem Decoder.publish_res_cmd :
    (r.publish k i a l).res_cmd = if k = .ok then commandFromByte (cbyteOf a) else .unknown := by
  cases k <;> rfl
@[simp] theorem Decoder.publish_res_lvlerr :
    (r.publish k i a l).res_lvlerr = l := by
  cases k <;> rfl

end Publish

/-! ## `Encoder.idle` (R248) and `Encoder.finish` (R249) -/

@[simp] theorem Encoder.idle_e_state (e : Encoder) : e.idle.e_state = e.e_state := rfl
@[simp] theorem Encoder.idle_e_code (e : Encoder) : e.idle.e_code = e.e_code := rfl
@[simp] theorem Encoder.idle_e_bit (e : Encoder) : e.idle.e_bit = e.e_bit := rfl
@[simp] theorem Encoder.idle_e_rep (e : Encoder) : e.idle.e_rep = e.e_rep := rfl
@[simp] theorem Encoder.idle_enc_done (e : Encoder) : e.idle.enc_done = false := rfl
@[simp] theorem Encoder.idle_enc_code (e : Encoder) : e.idle.enc_code = e.enc_code := rfl
@[simp] theorem Encoder.finish_e_state (c : EncCode) (e : Encoder) : (e.finish c).e_state = e.e_state := rfl
@[simp] theorem Encoder.finish_e_code (c : EncCode) (e : Encoder) : (e.finish c).e_code = e.e_code := rfl
@[simp] theorem Encoder.finish_e_bit (c : EncCode) (e : Encoder) : (e.finish c).e_bit = e.e_bit := rfl
@[simp] theorem Encoder.finish_e_rep (c : EncCode) (e : Encoder) : (e.finish c).e_rep = e.e_rep := rfl
@[simp] theorem Encoder.finish_enc_done (c : EncCode) (e : Encoder) : (e.finish c).enc_done = true := rfl
@[simp] theorem Encoder.finish_enc_code (c : EncCode) (e : Encoder) : (e.finish c).enc_code = c := rfl

/-! ## `State.offer` -/

@[simp] theorem State.offer_dec (x : Stimulus) (s : State) : (s.offer x).dec = s.dec := rfl
@[simp] theorem State.offer_enc (x : Stimulus) (s : State) : (s.offer x).enc = s.enc := rfl
@[simp] theorem State.offer_pending (x : Stimulus) (s : State) : (s.offer x).pending = x :: s.pending := rfl
@[simp] theorem State.offer_cfg (x : Stimulus) (s : State) : (s.offer x).cfg = s.cfg := rfl
@[simp] theorem State.offer_fn_out (x : Stimulus) (s : State) : (s.offer x).fn_out = s.fn_out := rfl

/-! ## `State.resetWith` (R47) -/

@[simp] theorem State.resetWith_dec (c : Cfg) : (State.resetWith c).dec = Decoder.reset := rfl
@[simp] theorem State.resetWith_enc (c : Cfg) : (State.resetWith c).enc = Encoder.reset := rfl
@[simp] theorem State.resetWith_cfg (c : Cfg) : (State.resetWith c).cfg = c := rfl
@[simp] theorem State.resetWith_pending (c : Cfg) : (State.resetWith c).pending = [] := rfl
@[simp] theorem State.resetWith_fn_out (c : Cfg) : (State.resetWith c).fn_out = .none := rfl

end Sys2Proof.Machine
end

