-- ==== Sys2Proof/Laws/Ops.lean ====
section
/-! SUPPORT. What each shared operation can do, said once. -/

namespace Sys2Proof.Machine

/-! ## Agent steps -/

/-- A decoder step that goes on: the registers were sound, and only the decoder's changed. -/
theorem onDecoder_eq_next {f : Decoder → Decoder} {s t : State} :
    onDecoder f s = .next t ↔ s.dec.check s.cfg = none ∧ t = { s with dec := f s.dec } := by
  unfold onDecoder
  split <;> rename_i h <;> simp [h]
  exact eq_comm

/-- A decoder step that stops: for the reason the check names. -/
theorem onDecoder_eq_fault {f : Decoder → Decoder} {s : State} {why : Fault} :
    onDecoder f s = .fault why ↔ s.dec.check s.cfg = some why := by
  unfold onDecoder
  split <;> simp_all

theorem onDecoder_ne_refused {f : Decoder → Decoder} {s : State} {why : Refusal} :
    onDecoder f s ≠ .refused why := by
  unfold onDecoder
  split <;> simp

/-- An encoder step that goes on: the registers were sound, and only the encoder's changed. -/
theorem onEncoder_eq_next {f : Encoder → Encoder} {s t : State} :
    onEncoder f s = .next t ↔ s.enc.check s.cfg = none ∧ t = { s with enc := f s.enc } := by
  unfold onEncoder
  split <;> rename_i h <;> simp [h]
  exact eq_comm

/-- An encoder step that stops: for the reason the check names. -/
theorem onEncoder_eq_fault {f : Encoder → Encoder} {s : State} {why : Fault} :
    onEncoder f s = .fault why ↔ s.enc.check s.cfg = some why := by
  unfold onEncoder
  split <;> simp_all

theorem onEncoder_ne_refused {f : Encoder → Encoder} {s : State} {why : Refusal} :
    onEncoder f s ≠ .refused why := by
  unfold onEncoder
  split <;> simp

/-- An internal function that goes on: both agents were sound, and only the model's output field changed. -/
theorem onFunction_eq_next {out : FnOut} {s t : State} :
    onFunction out s = .next t ↔ (s.dec.check s.cfg = none ∧ s.enc.check s.cfg = none) ∧ t = { s with fn_out := out } := by
  rw [← State.check_eq_none]
  unfold onFunction
  split <;> rename_i h <;> simp [h]
  exact eq_comm

/-- An internal function that stops: for the reason the check names. -/
theorem onFunction_eq_fault {out : FnOut} {s : State} {why : Fault} :
    onFunction out s = .fault why ↔ s.check = some why := by
  unfold onFunction
  split <;> simp_all

/-- A sequence goes on exactly when both parts do. -/
theorem andThen_eq_next {o : Out} {f : State → Out} {t : State} :
    andThen o f = .next t ↔ ∃ s, o = .next s ∧ f s = .next t := by
  unfold andThen
  split <;> simp_all

@[simp] theorem andThen_next (s : State) (f : State → Out) : andThen (.next s) f = f s := rfl

/-! ## The turns of a clock cycle -/

/-- What a cycle does to the decoder's registers (R170–R172). -/
def Decoder.turn (c : Cfg) (p : Ports) (r : Decoder) : Decoder :=
  if p.in_valid then
    if isEnd c p.in_word then r.endBurst
    else r.pulse c (Level.ofCode (BitVec.ofNat 1 (bitField p.in_word c.DUR_W 1))) (bitField p.in_word 0 c.DUR_W)
  else r.idle

/-- What a cycle does to the encoder's registers (R246–R248). -/
def Encoder.turn (c : Cfg) (p : Ports) (e : Encoder) : Encoder :=
  if e.reqReady then
    if p.req_valid then
      e.request (BitVec.ofNat 28 (bitField p.req_word 0 28)) (BitVec.ofNat 4 (bitField p.req_word 28 4))
        (Command.ofCode (BitVec.ofNat 2 (bitField p.req_word 32 2))) (bitField p.req_word 34 c.R_W)
    else e.idle
  else if p.out_ready then e.ack else e.idle

theorem decoderTurn_eq (p : Ports) (s : State) : decoderTurn p s = onDecoder (Decoder.turn s.cfg p) s := by
  unfold decoderTurn decodeToken Decoder.turn
  split
  · split <;> rfl
  · rfl

theorem encoderTurn_eq (p : Ports) (s : State) : encoderTurn p s = onEncoder (Encoder.turn s.cfg p) s := by
  unfold encoderTurn decodeRequest Encoder.turn
  split
  · split <;> simp [*, exec, execEncReq, onEncoder]
  · split <;> simp [*, exec, execEncAck, onEncoder]

/-- A cycle without reset that goes on: both agents were sound, and each took its turn on its own registers. -/
theorem clockEdge_eq_next {p : Ports} {s t : State} (hp : p.rst = false) :
    clockEdge p s = .next t ↔
      s.dec.check s.cfg = none ∧ s.enc.check s.cfg = none ∧ t = { s with dec := s.dec.turn s.cfg p, enc := s.enc.turn s.cfg p } := by
  simp only [clockEdge, hp, Bool.false_eq_true, if_false, andThen_eq_next, decoderTurn_eq, encoderTurn_eq,
    onDecoder_eq_next, onEncoder_eq_next]
  constructor
  · rintro ⟨_, ⟨hd, rfl⟩, he, rfl⟩
    exact ⟨hd, he, rfl⟩
  · rintro ⟨hd, he, rfl⟩
    exact ⟨_, ⟨hd, rfl⟩, he, rfl⟩

/-- A cycle with reset. -/
theorem clockEdge_reset {p : Ports} {s : State} (hp : p.rst = true) :
    clockEdge p s = .next { s with dec := Decoder.reset, enc := Encoder.reset } := by
  simp [clockEdge, hp, exec, execReset]

/-- What an evaluation amounts to. -/
def callResult (c : Cfg) : FnCall → FnOut
  | .classifyBit w => .bitValue (classifyBit c (bitField w c.DUR_W c.DUR_W) (bitField w 0 c.DUR_W))
  | .classifySync w => .isSync (classifySync c (bitField w c.DUR_W c.DUR_W) (bitField w 0 c.DUR_W))
  | .cmdFromByte w => .command (commandFromByte w)
  | .byteFromCmd w => .ofByte (byteFromCommand (Command.ofCode w))

theorem exec_call (f : FnCall) (s : State) : exec (decodeCall s.cfg f) s = onFunction (callResult s.cfg f) s := by
  cases f <;> rfl

/-- Everything a step can do. -/
theorem step_cases {s t : State} (h : step s = .next t) :
    (∃ p, (s.pending = [] ∧ p = Ports.idle ∨ ∃ rest, s.pending = .cycle p :: rest) ∧ p.rst = false ∧
      s.dec.check s.cfg = none ∧ s.enc.check s.cfg = none ∧
      t = { s with dec := s.dec.turn s.cfg p, enc := s.enc.turn s.cfg p, pending := s.pending.tail }) ∨
    (∃ p rest, s.pending = .cycle p :: rest ∧ p.rst = true ∧
      t = { s with dec := Decoder.reset, enc := Encoder.reset, pending := rest }) ∨
    (∃ f rest, s.pending = .evaluate f :: rest ∧ s.dec.check s.cfg = none ∧ s.enc.check s.cfg = none ∧
      t = { s with pending := rest, fn_out := callResult s.cfg f }) := by
  unfold step at h
  split at h
  · rename_i hs
    obtain ⟨hd, he, rfl⟩ := (clockEdge_eq_next rfl).1 h
    exact .inl ⟨_, .inl ⟨hs, rfl⟩, rfl, hd, he, by simp [hs]⟩
  · rename_i x rest hs
    cases x with
    | cycle p =>
      cases hp : p.rst with
      | false =>
        obtain ⟨hd, he, rfl⟩ := (clockEdge_eq_next hp).1 h
        exact .inl ⟨p, .inr ⟨rest, hs⟩, hp, hd, he, by simp [hs]⟩
      | true =>
        rw [respond, clockEdge_reset hp] at h
        exact .inr (.inl ⟨p, rest, hs, hp, by simpa using h.symm⟩)
    | evaluate f =>
      rw [respond, exec_call, onFunction_eq_next] at h
      obtain ⟨⟨hd, he⟩, rfl⟩ := h
      exact .inr (.inr ⟨f, rest, hs, hd, he, rfl⟩)

/-- A step never writes the configuration (R23). -/
theorem step_cfg {s t : State} (h : step s = .next t) : t.cfg = s.cfg := by
  rcases step_cases h with ⟨p, -, -, -, -, rfl⟩ | ⟨p, rest, -, -, rfl⟩ | ⟨f, rest, -, -, -, rfl⟩ <;> rfl

/-- A sound state takes a cycle without reset. -/
theorem step_cycle {s : State} {p : Ports} {rest : List Stimulus} (hs : s.pending = .cycle p :: rest)
    (hp : p.rst = false) (hd : s.dec.check s.cfg = none) (he : s.enc.check s.cfg = none) :
    step s = .next { s with dec := s.dec.turn s.cfg p, enc := s.enc.turn s.cfg p, pending := rest } := by
  simp only [step, hs, respond]
  exact (clockEdge_eq_next hp).2 ⟨hd, he, rfl⟩

end Sys2Proof.Machine
end

