-- ==== Sys2Proof/Laws/Words.lean ====
section
/-! SUPPORT. The width checks as inequalities, and the fields of a number. -/

namespace Sys2Proof

@[simp] theorem Cfg.fitsDur_iff {c : Cfg} {d : Nat} : c.fitsDur d = true ↔ d < 2 ^ c.DUR_W := decide_eq_true_iff

@[simp] theorem Cfg.fitsRep_iff {c : Cfg} {n : Nat} : c.fitsRep n = true ↔ n < 2 ^ c.R_W := decide_eq_true_iff

@[simp] theorem PortWord.onPort_iff {c : Cfg} {w : PortWord} : w.onPort c = true ↔ w.bits < 2 ^ w.width c :=
  decide_eq_true_iff

theorem bitField_lt (v lo n : Nat) : bitField v lo n < 2 ^ n := Nat.mod_lt _ (Nat.two_pow_pos n)

/-- A field that is the top of its word needs no mask. -/
theorem bitField_top {v lo n : Nat} (h : v < 2 ^ (lo + n)) : bitField v lo n = v / 2 ^ lo :=
  Nat.mod_eq_of_lt (Nat.div_lt_of_lt_mul (by rwa [← Nat.pow_add]))

/-- The lowest field of a sum whose other terms stand above it. -/
theorem bitField_low {a x n : Nat} (h : x < 2 ^ n) : bitField (a * 2 ^ n + x) 0 n = x := by
  rw [bitField, Nat.pow_zero, Nat.div_one, Nat.mul_comm, Nat.mul_add_mod, Nat.mod_eq_of_lt h]

/-- The fields above the lowest of such a sum. -/
theorem bitField_high {a x n k : Nat} (h : x < 2 ^ n) : bitField (a * 2 ^ n + x) n k = a % 2 ^ k := by
  rw [bitField, Nat.mul_comm, Nat.mul_add_div (Nat.two_pow_pos n), Nat.div_eq_of_lt h, Nat.add_zero]

/-- The fields of a token: `kind`, `level`, `dur` (R88). -/
theorem token_lt {lv n d : Nat} (hd : d < 2 ^ n) (hlv : lv < 2) : lv * 2 ^ n + d < 2 ^ (n + 1) := by
  rw [Nat.pow_succ]
  have : lv * 2 ^ n ≤ 1 * 2 ^ n := Nat.mul_le_mul_right _ (by omega)
  omega

end Sys2Proof
end

