-- ==== Sys2Proof/Laws/PerInstr.lean ====
section
/-! SUPPORT. The family `EncodedRow`: at the widths the transaction table is spelled for, every transaction whose operands
fit their ports is encoded to a word of the width its table row gives, with the row's pattern under the row's mask
(spec/30_encoding.md R97; spec/opcode_table.json). -/

namespace Sys2Proof.Laws.EncodedRow

def Statement (i : Instr) : Prop :=
  i.operandsFit Config.cfg = true → (tableRow i).fits (encode Config.cfg i) = true

/-- What a fitting word must show: its row's width, no bit beyond it, the row's pattern. -/
theorem fits_iff {t : TableRow} {w : PortWord} :
    t.fits w = true ↔ t.width = w.width Config.cfg ∧ w.bits < 2 ^ w.width Config.cfg ∧ w.bits &&& t.mask = t.pat := by
  simp [TableRow.fits, and_assoc]

theorem decPulse (lv : Level) (d : Nat) : Statement (.decPulse lv d) := by
  intro h
  have hd : d < 2 ^ 16 := Cfg.fitsDur_iff.1 h
  have hw : encodePulse Config.cfg lv d < 2 ^ 17 := token_lt hd (by cases lv <;> decide)
  refine fits_iff.2 ⟨rfl, hw.trans (show (2 : Nat) ^ 17 < 2 ^ 18 by decide), ?_⟩
  show encodePulse Config.cfg lv d &&& 2 ^ 17 = 0
  rw [Nat.and_two_pow, Nat.testBit_lt_two_pow hw]
  rfl

theorem decEnd : Statement .decEnd := fun _ => rfl

theorem encReq (p : PilotId) (r : RollerId) (c : Command) (n : Nat) : Statement (.encReq p r c n) := by
  intro h
  have hn : n < 2 ^ 8 := Cfg.fitsRep_iff.1 h
  have hp := p.isLt
  have hr := r.isLt
  have hc := c.code.isLt
  refine fits_iff.2 ⟨rfl, ?_, Nat.and_zero _⟩
  show encodeRequest p r c n < 2 ^ 42
  unfold encodeRequest
  omega

theorem encAck : Statement .encAck := fun _ => rfl

theorem reset : Statement .reset := fun _ => rfl

/-- A pair of durations fills the table's 32 bits. -/
theorem encodePair_lt {h l : Nat} (hf : (Config.cfg.fitsDur h && Config.cfg.fitsDur l) = true) :
    encodePair Config.cfg h l < 2 ^ 32 := by
  have hh : h < 2 ^ 16 := Cfg.fitsDur_iff.1 (Bool.and_eq_true_iff.1 hf).1
  have hl : l < 2 ^ 16 := Cfg.fitsDur_iff.1 (Bool.and_eq_true_iff.1 hf).2
  show h * 2 ^ 16 + l < 2 ^ 32
  omega

theorem classifyBit (h l : Nat) : Statement (.classifyBit h l) := fun hf =>
  fits_iff.2 ⟨rfl, encodePair_lt hf, Nat.and_zero _⟩

theorem classifySync (h l : Nat) : Statement (.classifySync h l) := fun hf =>
  fits_iff.2 ⟨rfl, encodePair_lt hf, Nat.and_zero _⟩

theorem cmdFromByte (b : CmdByte) : Statement (.cmdFromByte b) := fun _ => fits_iff.2 ⟨rfl, b.isLt, Nat.and_zero _⟩

theorem byteFromCmd (c : Command) : Statement (.byteFromCmd c) := fun _ =>
  fits_iff.2 ⟨rfl, c.code.isLt, Nat.and_zero _⟩

end Sys2Proof.Laws.EncodedRow
end

