-- ==== Sys2Proof/Laws/Run.lean ====
section
/-! SUPPORT. Runs of several steps, one step at a time. -/

namespace Sys2Proof.Laws

open Sys2Proof.Machine

@[simp] theorem core_step (s : State) : Sys2Proof.core.step s = step s := rfl

@[simp] theorem run_zero (s : State) : Sys2Proof.core.run 0 s = .next s := rfl

theorem run_succ {s t : State} (k : Nat) (h : step s = .next t) :
    Sys2Proof.core.run (k + 1) s = Sys2Proof.core.run k t := by
  have h' : Sys2Proof.core.step s = .next t := h
  exact (Host.Core.run.eq_2 Sys2Proof.core s k).trans (by rw [h'])

/-- A run that goes on has a first step that goes on. -/
theorem run_succ_eq_next {s t : State} {k : Nat} (h : Sys2Proof.core.run (k + 1) s = .next t) :
    ∃ u, step s = .next u ∧ Sys2Proof.core.run k u = .next t := by
  replace h := (Host.Core.run.eq_2 Sys2Proof.core s k).symm.trans h
  split at h
  · exact ⟨_, ‹_›, h⟩
  · cases h
  · cases h

/-- A run of `j + k` steps is a run of `j` and then one of `k`. -/
theorem run_add {s t : State} (j k : Nat) (h : Sys2Proof.core.run j s = .next t) :
    Sys2Proof.core.run (j + k) s = Sys2Proof.core.run k t := by
  induction j generalizing s with
  | zero =>
    cases h
    rw [Nat.zero_add]
  | succ j ih =>
    obtain ⟨u, hu, h⟩ := run_succ_eq_next h
    rw [Nat.succ_add, run_succ _ hu]
    exact ih h

end Sys2Proof.Laws
end

