-- ==== Sys2Proof/Tests/Slice0.lean ====
section
/-! SUPPORT. The model's own tests, each on one step, with expected values from the spec (its rules' examples and
spec/95_test_vectors.md), and for each obligation with hypotheses a state and operands that meet them all. -/

namespace Sys2Proof.Tests

open Sys2Proof.Machine

/-! ## Helpers -/

/-- A decoder inside a burst. -/
def burst (cnt : BitVec 7) (hi : Nat) (acc : Code40) (err : DErr) (eidx : BitVec 6) : Decoder :=
  { Decoder.reset with d_cnt := cnt, d_hi := hi, d_acc := acc, d_err := err, d_eidx := eidx }

/-- The reset state with another decoder. -/
def withDec (r : Decoder) : State := { State.reset with dec := r }

/-- The reset state with another encoder. -/
def withEnc (e : Encoder) : State := { State.reset with enc := e }

/-- A decoder that has published an `OK` result and waits for END. -/
def drained : Decoder := { Decoder.reset with d_phase := .drain, res_kind := .ok }

/-- An encoder in the middle of the encoding of R246's example, with `n` repetitions left. -/
def sending (st : EState) (bit : BitVec 6) (n : Nat) : Encoder :=
  { Encoder.reset with e_state := st, e_code := 0x0ABCDEF311, e_bit := bit, e_rep := n }

/-- The inputs of a cycle with nothing valid. -/
def quiet : Ports := Ports.idle

/-- A value read from the next state, if there is one. -/
def after {α : Type} (o : Out) (f : State → α) : Option α :=
  match o with
  | .next s => some (f s)
  | .fault _ | .refused _ => none

/-! ## Well-formedness: an ill-formed term for each check -/

theorem test_unknown_command_is_ill_formed : (Instr.encReq 1 2 .unknown 1).commandLegal = false := by decide
theorem test_zero_repeat_is_ill_formed : (Instr.encReq 1 2 .up 0).repeatLegal = false := by decide
theorem test_wide_operands_are_ill_formed :
    (Instr.decPulse .high 65536).operandsFit Config.cfg = false ∧ (Instr.encReq 1 2 .up 256).operandsFit Config.cfg = false ∧
      (Instr.classifyBit 0 65536).operandsFit Config.cfg = false ∧
      (Instr.classifySync 65536 0).operandsFit Config.cfg = false := by decide
theorem test_ill_formed_requests_refused :
    (Instr.encReq 1 2 .unknown 1).wellFormed Config.cfg = false ∧ (Instr.encReq 1 2 .up 0).wellFormed Config.cfg = false ∧
      (Instr.decPulse .low 65536).wellFormed Config.cfg = false ∧ (Instr.encReq 1 2 .up 255).wellFormed Config.cfg = true := by
  decide
/-- R22 W1, W2, W3: a window with `min > max` (95 §2.1), a constant of 17 bits, and a nominal pair outside its windows. -/
theorem test_ill_formed_configuration :
    Cfg.wellFormed { Config.withGap 0 with SYL := ⟨1901, 1900⟩ } = false ∧
      windowsOrdered { Config.withGap 0 with B1H := ⟨7, 3⟩ } = false ∧
      constantsFit { Config.withGap 0 with GAP_US := 65536 } = false ∧
      nominalsClassify { Config.withGap 0 with B0H_NOM := 239 } = false ∧ (Config.withGap 0).wellFormed = true := by decide

/-! ## Decoding: words written out from the spec's encodings -/

/-- R88: kind 0, level 1, duration 4760 = 0001 0010 1001 1000. -/
theorem test_decode_pulse_high :
    decode Config.cfg (.token 0b010001001010011000) = .ok (.decPulse .high 4760) := by rfl
/-- R100: `PULSE L 1520` is `0x005F0`. -/
theorem test_decode_pulse_low : decode Config.cfg (.token 0x005F0) = .ok (.decPulse .low 1520) := by rfl
/-- R89: an END whatever its other bits. -/
theorem test_decode_end :
    decode Config.cfg (.token 0b100000000000000000) = .ok .decEnd ∧ decode Config.cfg (.token 0b110000000000000001) = .ok .decEnd :=
  ⟨rfl, rfl⟩
/-- 95 §2.5: rep 00000011, cmd 01, roller 0011, pilot 0x0ABCDEF. -/
theorem test_decode_request :
    decode Config.cfg (.request 0b000000110100110000101010111100110111101111) = .ok (.encReq 0x0ABCDEF 3 .up 3) ∧
      decode Config.cfg (.request 0x3FFFFFFFFFF) = .ok (.encReq 0xFFFFFFF 0xF .stop 255) := ⟨rfl, rfl⟩
theorem test_decode_lines :
    decode Config.cfg (.outReady 1#1) = .ok .encAck ∧ decode Config.cfg (.outReady 0#1) = .error .noHandshake ∧
      decode Config.cfg (.rst 1#1) = .ok .reset ∧ decode Config.cfg (.rst 0#1) = .error .notInReset := ⟨rfl, rfl, rfl, rfl⟩
/-- R97: `h` is bits 31:16 (320 = 0x0140), `l` bits 15:0 (760 = 0x02F8). -/
theorem test_decode_calls :
    decode Config.cfg (.call (.classifyBit 0x014002F8)) = .ok (.classifyBit 320 760) ∧
      decode Config.cfg (.call (.classifySync 0x014002F8)) = .ok (.classifySync 320 760) ∧
      decode Config.cfg (.call (.cmdFromByte 0x55#8)) = .ok (.cmdFromByte 0x55) ∧
      decode Config.cfg (.call (.byteFromCmd 2#2)) = .ok (.byteFromCmd .down) := ⟨rfl, rfl, rfl, rfl⟩
/-- R100: the words of the notation. -/
theorem test_encode_words :
    encode Config.cfg (.decPulse .high 4760) = .token 0x11298 ∧ encode Config.cfg .decEnd = .token 0x20000 ∧
      encode Config.cfg (.encReq 0x0ABCDEF 3 .up 1) = .request 0x530ABCDEF ∧
      encode Config.cfg (.encReq 0x1234567 2 .down 0) = .request 0x221234567 := ⟨rfl, rfl, rfl, rfl⟩
/-- Table words, numbered as the table numbers them (log entry 3). -/
theorem test_table_words :
    decodeTableWord 24 0x11298 = some (.decPulse .high 4760) ∧ decodeTableWord 24 0x40000 = none ∧
      decodeTableWord 48 0x530ABCDEF = some (.encReq 0x0ABCDEF 3 .up 1) ∧ decodeTableWord 8 1 = some .encAck ∧
      decodeTableWord 8 0x33 = some (.cmdFromByte 0x33) ∧ decodeTableWord 16 0 = none := ⟨rfl, rfl, rfl, rfl, rfl, rfl⟩

/-! ## Single steps -/

/-- R170: "from reset, `PULSE H 4760` leaves `d_cnt = 1, d_hi = 4760`". -/
theorem test_first_pulse :
    after (exec (.decPulse .high 4760) State.reset) (fun s => (s.dec.d_cnt, s.dec.d_hi)) = some (1, 4760) := by decide
/-- 95 §2.3: `(451, L)` as pulse 81 is a bit error at pair 39. -/
theorem test_last_pulse_bit_error :
    after (exec (.decPulse .low 451) (withDec (burst 81 720 0 .none 0)))
      (fun s => (s.dec.res_valid, s.dec.res_kind, s.dec.res_idx, s.dec.d_phase)) = some (true, .bitError, 39, .drain) := by
  decide
/-- R171: a burst of two pulses closed by END is `TOO_SHORT`, also when its sync pair failed (95 P2). -/
theorem test_end_too_short :
    after (exec .decEnd (withDec (burst 2 4760 0 .sync 0))) (fun s => (s.dec.res_kind, s.dec.d_cnt, s.dec.d_err)) =
      some (.tooShort, 0, .none) := by decide
/-- R171: an END in `DRAIN` publishes nothing. -/
theorem test_end_in_drain :
    after (exec .decEnd (withDec drained)) (fun s => (s.dec.res_valid, s.dec.res_kind, s.dec.d_phase)) =
      some (false, .ok, .collect) := by decide
/-- R246: the example request. -/
theorem test_request :
    after (exec (.encReq 0x0ABCDEF 3 .up 1) State.reset) (fun s => (s.enc.e_code, s.enc.e_rep, s.enc.e_state)) =
      some (0x0ABCDEF311, 1, .syncH) := by decide
/-- R246: `c = 0` with `n = 0` reports `E_UNKNOWN_COMMAND`. -/
theorem test_request_unknown_first :
    after (exec (.encReq 0x1234567 2 .unknown 0) State.reset) (fun s => (s.enc.enc_code, s.enc.e_state)) =
      some (.unknownCommand, .idle) := by decide
/-- R247: the last handshake of an encoding. -/
theorem test_last_handshake :
    after (exec .encAck (withEnc (sending .bitL 39 1))) (fun s => (s.enc.enc_done, s.enc.enc_code, s.enc.e_state)) =
      some (true, .ok, .idle) := by decide
/-- R250: leaving `GAP` is where `e_rep` decreases. -/
theorem test_gap_handshake :
    after (exec .encAck (withEnc (sending .gap 39 3))) (fun s => (s.enc.e_rep, s.enc.e_bit, s.enc.e_state)) =
      some (2, 0, .syncH) := by decide
/-- 95 §2.6: the token and the handshake of a reset cycle are not taken. -/
theorem test_reset_overrides :
    after (clockEdge { quiet with rst := true, in_valid := true, out_ready := true }
        { withDec (burst 40 720 5 .none 0) with enc := sending .bitL 7 1 }) (fun s => (s.dec, s.enc)) =
      some (Decoder.reset, Encoder.reset) := by decide
/-- R48, R343: reset also leaves a state that no step may start from. -/
theorem test_reset_from_power_up :
    after (exec .reset (withEnc { sending .code7 63 0 with enc_done := true })) (fun s => s.enc.e_state) = some .idle := by
  decide
/-- 95 V1.6: the bounds of the bit-0 windows are inclusive. -/
theorem test_classify_bit_bounds :
    [(240, 570), (400, 950), (239, 570), (401, 950), (240, 569), (240, 951)].map
        (fun (x : Nat × Nat) => classifyBit Config.cfg x.1 x.2) =
      [.bit0, .bit0, .invalid, .invalid, .invalid, .invalid] := by decide
/-- R145: the bounds of the bit-1 windows. -/
theorem test_classify_bit1_bounds :
    [(540, 270), (900, 450), (539, 270), (901, 450), (540, 269), (900, 451)].map
        (fun (x : Nat × Nat) => classifyBit Config.cfg x.1 x.2) =
      [.bit1, .bit1, .invalid, .invalid, .invalid, .invalid] := by decide
/-- 95 §2.2: overlap priority. -/
theorem test_classify_bit_overlap :
    classifyBit { Config.withGap 0 with B1H := ⟨240, 900⟩, B1L := ⟨270, 950⟩ } 320 760 = .bit0 := by decide
/-- R141: each half in its own window. -/
theorem test_classify_sync :
    after (exec (.classifySync 3570 1900) State.reset) (·.fn_out) = some (.isSync true) ∧
      after (exec (.classifySync 3569 1520) State.reset) (·.fn_out) = some (.isSync false) := by decide
/-- R220: the byte is matched whole. -/
theorem test_cmd_from_byte :
    after (exec (.cmdFromByte 0x33) State.reset) (·.fn_out) = some (.command .down) ∧
      after (exec (.cmdFromByte 0x12) State.reset) (·.fn_out) = some (.command .unknown) := by decide
/-- R221. -/
theorem test_byte_from_cmd :
    after (exec (.byteFromCmd .stop) State.reset) (·.fn_out) = some (.byte 0x55) ∧
      after (exec (.byteFromCmd .unknown) State.reset) (·.fn_out) = some (.byteError .unknownCommand) := by decide
/-- R92, 95 V1.9: element words; the final element adds `0x40000`. -/
theorem test_element_words :
    ((sending .syncH 0 1).element Config.cfg).map (·.word Config.cfg) = some 0x11298 ∧
      ((sending .bitL 39 1).element Config.cfg).map (·.word Config.cfg) = some 0x40168 ∧
      ((sending .gap 39 2).element (Config.withGap 10000)).map (·.word Config.cfg) = some 0x22710 := by decide
/-- 95 P1: the result word. -/
theorem test_result_word :
    (Decoder.publish .ok 0 0x0ABCDEF311 false Decoder.reset).resultWord = 0x1010ABCDEF311 := by decide
/-- R303: a token and a handshake of one cycle are both taken. -/
theorem test_both_agents :
    after (clockEdge { quiet with in_valid := true, in_word := 0x11298, out_ready := true } (withEnc (sending .syncH 0 1)))
      (fun s => (s.dec.d_cnt, s.enc.e_state)) = some (1, .syncL) := by decide
/-- R303: a request and `out_ready` of one cycle: only the request is taken in `IDLE`. -/
theorem test_request_not_acknowledged :
    after (clockEdge { quiet with req_valid := true, req_word := 0x530ABCDEF, out_ready := true } State.reset)
      (fun s => s.enc.e_state) = some .syncH := by decide
/-- A table word placed by the host's function is what the next step runs. -/
theorem test_with_fetch_word :
    after (step (State.reset.withFetchWord 24 0x11298)) (fun s => (s.dec.d_cnt, s.dec.d_hi)) = some (1, 4760) := by decide
/-- R122: `P = 0` is the exact value; the clamps act at both ends. -/
theorem test_tolerance_window :
    toleranceWindow 16 25 760 = ⟨570, 950⟩ ∧ toleranceWindow 16 0 760 = ⟨760, 760⟩ ∧
      toleranceWindow 16 150 60000 = ⟨0, 65535⟩ := by decide
/-- R6: the widths are parameters: with 12-bit durations the kind bit is bit 13, and `0x2298` is `PULSE H 664`. -/
theorem test_other_width :
    let c := Config.derived 12 4 25 3000 1000 320 760 720 360 500
    decode c (.token 0x1298) = .ok (.decPulse .high 664) ∧ decode c (.token 0x2000) = .ok .decEnd ∧
      decode c (.request 0x1130ABCDEF) = .ok (.encReq 0x0ABCDEF 3 .up 4) := ⟨rfl, rfl, rfl⟩
/-- R6, R20: the machine of another configuration is stepped by the same `step`: here an exact sync pair. -/
theorem test_other_configuration :
    let c := { Config.withGap 0 with SYH := ⟨5000, 5000⟩ }
    let s := { State.resetWith c with dec := burst 1 4760 0 .none 0, pending := [Script.pulse c .low 1520] }
    after (step s) (fun s => s.dec.d_err) = some .sync := by decide +kernel

/-- R100: `ACK*` up to the cycle that takes the last element, none where `enc_done` stands (95 P4: `ACK*` ends in cycle
167, the last element's; cycle 168 has `enc_done = 1`), and no end in `IDLE`. -/
theorem test_ack_star :
    Script.ackStar Config.cfg (sending .bitL 38 1) = some (List.replicate 3 (Script.ack Config.cfg)) ∧
      Script.ackStar Config.cfg (Encoder.finish .badRepeat Encoder.reset) = some [] ∧
      Script.ackStar Config.cfg Encoder.reset = none := by decide +kernel
/-- R100: `ACK*` within a program: three cycles, and none again right after them. -/
theorem test_ack_star_in_program :
    Script.expand [.cycles [Script.nop], .ackStar, .ackStar, .cycles [Script.endLine Config.cfg]] (withEnc (sending .bitL 38 1)) =
      some (Script.nop :: List.replicate 3 (Script.ack Config.cfg) ++ [Script.endLine Config.cfg]) := by decide +kernel

/-! ## Which register values are reached (R314) -/

/-- A burst of two pulses without error whose high duration fits no sync, an `E_OK` without an encoding: no run from
reset has them, and every step faults. -/
theorem test_unreached_values :
    (burst 2 0 0 .none 0).check Config.cfg = some .decoderUnreached ∧
      ({ Encoder.reset with enc_code := .ok } : Encoder).check Config.cfg = some .encoderUnreached ∧
      (burst 4 720 0 .none 0).check Config.cfg = some .decoderUnreached ∧
      (burst 4 720 1 .none 0).check Config.cfg = none := by decide +kernel
/-- R314: an internal function faults there as well. -/
theorem test_function_checks_registers :
    after (exec (.cmdFromByte 0x11) (withDec (burst 4 720 1 .code3 0))) (·.fn_out) = none ∧
      after (exec (.cmdFromByte 0x11) (withEnc (sending .code6 0 1))) (·.fn_out) = none := by decide +kernel
/-- The set depends on the windows: without a bit-1 window no accumulator holds a 1. -/
theorem test_reached_depends_on_windows :
    (burst 4 320 0 .none 0).check { Config.withGap 0 with B1H := ⟨7, 3⟩ } = none ∧
      (burst 5 320 1 .none 0).check { Config.withGap 0 with B1H := ⟨7, 3⟩ } = some .decoderUnreached := by decide +kernel

/-! ## Witnesses: the hypotheses of each obligation, met by a concrete state -/

theorem witness_ResetOverridesEveryInput :
    (withEnc (sending .gap 39 2)).Sound ∧ ({ quiet with rst := true, in_valid := true } : Ports).rst = true ∧
      ({ withEnc (sending .gap 39 2) with pending := [.cycle { quiet with rst := true, in_valid := true }] } : State).pending =
        .cycle { quiet with rst := true, in_valid := true } :: [] := by decide
theorem witness_ResetCompletes :
    ({ quiet with rst := true, in_valid := true } : Ports).rst = true ∧
      ({ withEnc (sending .code6 63 0) with pending := [.cycle { quiet with rst := true, in_valid := true }] } : State).pending =
        .cycle { quiet with rst := true, in_valid := true } :: [] := by decide
theorem witness_StepKeepsSound :
    (withDec (burst 80 720 5 .none 0)).Sound ∧ (withEnc (sending .gap 39 2)).Sound ∧
      ∃ t, step (withDec (burst 80 720 5 .none 0)) = .next t := ⟨by decide +kernel, by decide +kernel, _, rfl⟩
theorem witness_SoundStatesAreReached : (withDec (burst 81 360 5 .bit 7)).Sound ∧ (withEnc (sending .gap 39 255)).Sound := by
  decide +kernel
theorem witness_UnreachedStatesFault :
    ¬ (withDec (burst 2 0 0 .none 0)).Sound ∧ ¬ (withEnc { Encoder.reset with enc_code := .ok }).Sound ∧
      ∀ (p : Ports) (rest : List Stimulus), (withDec (burst 2 0 0 .none 0)).pending = .cycle p :: rest → p.rst = false :=
  ⟨by decide +kernel, by decide +kernel, nofun⟩
theorem witness_ConfigurationNeverChanges :
    (∃ t, exec .encAck State.reset = .next t) ∧ ∃ t, step State.reset = .next t := ⟨⟨_, rfl⟩, ⟨_, rfl⟩⟩
theorem witness_InternalFunctionsComplete :
    State.reset.Sound ∧ byteFromCommand .up = .ok 0x11 ∧ byteFromCommand .unknown = .error .unknownCommand :=
  ⟨by decide +kernel, rfl, rfl⟩
theorem witness_ClassifierRegions : State.reset.Sound ∧ State.reset.cfg = Config.withGap Config.gapUs :=
  ⟨by decide +kernel, rfl⟩
theorem witness_MapperTable : State.reset.Sound := by decide +kernel
theorem witness_DecodeEncode :
    (Instr.decPulse .high 65535).operandsFit Config.cfg = true ∧ (Instr.encReq 0 0 .stop 255).operandsFit Config.cfg = true := by
  decide
theorem witness_SoundStateSteps : (withEnc (sending .bitL 39 255)).Sound ∧ (withDec drained).Sound := by decide
theorem witness_NeverWrittenValuesFault :
    (burst 4 0 0 .code3 0).d_err = .code3 ∧ 81 < (burst 82 0 0 .none 0).d_cnt.toNat ∧
      39 < (burst 81 0 0 .bit 40).d_eidx.toNat ∧ ({ drained with res_kind := .code5 } : Decoder).res_kind = .code5 ∧
      (sending .code6 0 1).e_state = .code6 ∧ 39 < (sending .bitH 40 1).e_bit.toNat := by decide
theorem witness_StepRunsDecodedTransaction :
    decode Config.cfg (.token 0x20001) = .ok .decEnd ∧ decode Config.cfg (.request 0) = .ok (.encReq 0 0 .unknown 0) ∧
      decodeTableWord 24 0 = some (.decPulse .low 0) ∧ decodeTableWord 48 0 = some (.encReq 0 0 .unknown 0) :=
  ⟨rfl, rfl, rfl, rfl⟩
theorem witness_BothAgentsActInOneCycle :
    let p : Ports := { quiet with in_valid := true, req_valid := true, out_ready := true }
    ({ State.reset with pending := [.cycle p] } : State).Sound ∧ p.rst = false ∧
      ({ withEnc (sending .bitH 0 1) with pending := [.cycle p] } : State).Sound ∧
      State.reset.enc.e_state = .idle ∧ p.in_valid = true ∧ p.req_valid = true ∧
      (sending .bitH 0 1).e_state ≠ .idle ∧ p.out_ready = true := by decide
theorem witness_AgentsAreIndependent :
    let p : Ports := { quiet with in_valid := true, out_ready := true }
    let q : Ports := { quiet with in_valid := true }
    p.rst = q.rst ∧ (∃ t, clockEdge p (withEnc (sending .bitH 0 1)) = .next t) ∧ (∃ t, clockEdge q State.reset = .next t) ∧
      (withEnc (sending .bitH 0 1)).dec = State.reset.dec ∧ p.in_valid = q.in_valid ∧ p.in_word = q.in_word :=
  ⟨rfl, ⟨_, rfl⟩, ⟨_, rfl⟩, rfl, rfl, rfl⟩
theorem witness_AgentsAreIndependent_encoder :
    let p : Ports := { quiet with in_valid := true }
    (∃ t, clockEdge p State.reset = .next t) ∧ (∃ t, clockEdge quiet (withDec drained) = .next t) ∧
      State.reset.enc = (withDec drained).enc ∧ p.req_valid = quiet.req_valid ∧ p.req_word = quiet.req_word ∧
      p.out_ready = quiet.out_ready := ⟨⟨_, rfl⟩, ⟨_, rfl⟩, rfl, rfl, rfl, rfl⟩
theorem witness_UnsampledInputsIgnored :
    let p : Ports := { quiet with in_word := 5, req_word := 7, out_ready := true }
    p.rst = quiet.rst ∧ p.in_valid = quiet.in_valid ∧ (p.in_valid = true → p.in_word = quiet.in_word) ∧
      (State.reset.enc.e_state = .idle →
        p.req_valid = quiet.req_valid ∧ (p.req_valid = true → p.req_word = quiet.req_word)) ∧
      (State.reset.enc.e_state ≠ .idle → p.out_ready = quiet.out_ready) := by decide
theorem witness_EndTokenBitsIgnored : isEnd Config.cfg 0x20000 = true ∧ isEnd Config.cfg 0x3FFFF = true := by decide
theorem witness_TransactionsKeepTheOtherAgent :
    (∃ t, exec .decEnd State.reset = .next t) ∧ (∃ t, exec .encAck State.reset = .next t) ∧
      (∃ t, exec .reset State.reset = .next t) ∧ ∃ t, exec (.cmdFromByte 1) State.reset = .next t :=
  ⟨⟨_, rfl⟩, ⟨_, rfl⟩, ⟨_, rfl⟩, ⟨_, rfl⟩⟩
theorem witness_EvenPulseLatchesHighDuration :
    [burst 0 0 0 .none 0, burst 2 4760 0 .sync 0, burst 80 720 5 .bit 38].all
      (fun r => r.check Config.cfg == none && r.d_phase == .collect && r.d_cnt.toNat % 2 == 0) = true := by decide
theorem witness_SecondPulseChecksSync :
    (burst 1 4760 0 .none 0).check Config.cfg = none ∧ (burst 1 4760 0 .none 0).d_phase = .collect ∧
      (burst 1 4760 0 .none 0).d_cnt = 1 := by decide
theorem witness_OddPulseClassifiesBitPair :
    [burst 3 320 0 .none 0, burst 79 720 5 .none 0].all
      (fun r => r.check Config.cfg == none && r.d_phase == .collect && r.d_err == .none && r.d_cnt.toNat % 2 == 1 &&
        decide (3 ≤ r.d_cnt.toNat) && decide (r.d_cnt.toNat ≤ 79)) = true := by decide
theorem witness_FirstErrorFreezesBurst :
    [burst 2 320 0 .sync 0, burst 80 320 0 .sync 0, burst 4 320 0 .bit 0, burst 79 720 5 .bit 37].all
      (fun r => r.check Config.cfg == none && r.d_phase == .collect && r.d_err != .none && decide (r.d_cnt.toNat < 81)) = true := by
  decide
theorem witness_LastPulsePublishes :
    [burst 81 320 0 .sync 0, burst 81 320 5 .bit 38, burst 81 320 0x7FFFFFFFFF .none 0].map
      (fun r => (r.check Config.cfg, r.d_phase, r.d_cnt, r.d_err)) =
      [(none, .collect, 81, .sync), (none, .collect, 81, .bit), (none, .collect, 81, .none)] := by decide
theorem witness_DrainIgnoresPulses :
    drained.check Config.cfg = none ∧ drained.d_phase = .drain ∧
      after (step ({ withDec drained with pending := [.cycle { quiet with in_valid := true, in_word := 0x20000 }] } : State))
        (·.dec.d_phase) = some .collect := by decide
theorem witness_EndClosesBurst :
    (burst 81 320 5 .bit 38).check Config.cfg = none ∧ (burst 81 320 5 .bit 38).d_phase = .collect ∧ drained.check Config.cfg = none ∧
      drained.d_phase = .drain := by decide
theorem witness_LevelIsOnlyReported :
    [burst 0 0 0 .none 0, burst 81 320 5 .none 0].all (fun r => r.check Config.cfg == none && r.d_phase == .collect) = true := by decide
theorem witness_DecoderKeepsStateWithoutTokens :
    let s : State := { withDec (burst 40 720 5 .none 0) with pending := [.cycle quiet, .cycle quiet] }
    s.Sound ∧ [quiet, quiet] ≠ [] ∧ (∀ p ∈ [quiet, quiet], p.rst = false ∧ p.in_valid = false) ∧
      s.pending = [quiet, quiet].map .cycle ++ [] := by decide
theorem witness_PulseInsideBurstKeepsResult :
    drained.check Config.cfg = none ∧ drained.d_cnt.toNat ≠ 81 ∧ (burst 80 720 5 .none 0).check Config.cfg = none ∧
      (burst 80 720 5 .none 0).d_cnt.toNat ≠ 81 := by decide
theorem witness_ResultChangesOnlyAtPublication :
    let p : Ports := { quiet with in_valid := true, in_word := 0x20000 }
    let s : State := { State.reset with pending := [.cycle p] }
    s.pending = .cycle p :: [] ∧ p.rst = false ∧ (∃ t, step s = .next t) ∧ p.in_valid = true ∧
      s.dec.d_phase = .collect ∧ isEnd Config.cfg p.in_word = true := ⟨rfl, rfl, ⟨_, rfl⟩, rfl, rfl, rfl⟩
theorem witness_ResultChangesOnlyAtPublication_none :
    let s : State := { State.reset with pending := [.cycle quiet] }
    s.pending = .cycle quiet :: [] ∧ quiet.rst = false ∧ (∃ t, step s = .next t) ∧ ¬ quiet.in_valid = true :=
  ⟨rfl, rfl, ⟨_, rfl⟩, by decide⟩
theorem witness_FailedResultCarriesNoFrame : State.reset.Sound ∧ ∃ t, step State.reset = .next t := ⟨by decide, _, rfl⟩
theorem witness_ResultWordLayout : drained.check Config.cfg = none ∧ (burst 81 320 5 .bit 38).check Config.cfg = none := by decide
theorem witness_DecoderAgreesWithDecode :
    Decoder.reset.check Config.cfg = none ∧ Decoder.reset.d_phase = .collect ∧ Decoder.reset.d_cnt = 0 ∧
      82 ≤ (List.replicate 82 (⟨320, .high⟩ : Pulse)).length ∧ (List.replicate 81 (⟨320, .high⟩ : Pulse)).length < 82 := by
  simp only [List.length_replicate]
  decide
theorem witness_EveryClosedBurstIsReported :
    let s : State := { State.reset with pending := [Script.pulse Config.cfg .high 4760, Script.pulse Config.cfg .low 1520, Script.endLine Config.cfg] }
    s.Sound ∧ s.dec.d_phase = .collect ∧ s.dec.d_cnt = 0 ∧
      (∀ x ∈ [(⟨4760, .high⟩ : Pulse), ⟨1520, .low⟩], s.cfg.fitsDur x.dur = true) ∧
      s.pending = [(⟨4760, .high⟩ : Pulse), ⟨1520, .low⟩].map (fun x => Script.pulse Config.cfg x.level x.dur) ++ Script.endLine Config.cfg :: [] := by
  decide
theorem witness_FrameLinesPublishTheirCode :
    let s : State := { State.reset with pending := Script.frame Config.cfg 0x0ABCDEF311 ++ [] }
    s.Sound ∧ s.dec.d_phase = .collect ∧ s.dec.d_cnt = 0 ∧ nominalsClassify s.cfg = true ∧
      s.cfg.nominals.all s.cfg.fitsDur = true ∧ s.pending = Script.frame Config.cfg 0x0ABCDEF311 ++ [] :=
  ⟨by decide +kernel, rfl, rfl, by decide, by decide, rfl⟩
/-- R161's clauses: a short burst; a failed sync pair; an invalid first and last bit pair; a good burst. -/
theorem witness_DecodeErrorPrecedence :
    let c := Config.withGap 0
    let good : List Pulse := (frameElements c 0x0ABCDEF311).map Element.pulse
    let badSync := good.set 1 ⟨1901, .low⟩
    let badFirst := good.set 2 ⟨239, .high⟩
    let badLast := good.set 81 ⟨451, .low⟩
    let valid (b : List Pulse) (i : Nat) : Bool := classifyBit c (durAt b (2 + 2 * i)) (durAt b (3 + 2 * i)) != .invalid
    (good.take 81).length < 82 ∧ badSync.length = 82 ∧ classifySync c (durAt badSync 0) (durAt badSync 1) = false ∧
      badFirst.length = 82 ∧ classifySync c (durAt badFirst 0) (durAt badFirst 1) = true ∧ valid badFirst 0 = false ∧
      badLast.length = 82 ∧ classifySync c (durAt badLast 0) (durAt badLast 1) = true ∧ valid badLast 39 = false ∧
      (List.range 39).all (valid badLast) = true ∧ (List.range 40).all (valid good) = true := by decide +kernel
theorem witness_MapperInverseLaws : byteFromCommand .stop = .ok 0x55 := rfl
theorem witness_RequestStartsOrEnds :
    Encoder.reset.check Config.cfg = none ∧ Encoder.reset.e_state = .idle ∧ (sending .bitH 0 1).check Config.cfg = none ∧
      (sending .bitH 0 1).e_state ≠ .idle ∧ (Command.stop, 0x55#8) ∈ [(Command.up, 0x11#8), (.down, 0x33#8), (.stop, 0x55#8)] := by
  decide
theorem witness_HandshakeAdvancesSerializer :
    [Encoder.reset, sending .syncH 0 1, sending .syncL 0 255, sending .bitH 39 1, sending .bitL 0 1, sending .bitL 38 2,
      sending .bitL 39 2, sending .bitL 39 1, sending .gap 39 2].all (fun e => e.check Config.cfg == none) = true := by decide
theorem witness_OutputFunction :
    [Encoder.reset, sending .syncH 0 1, sending .syncL 0 1, sending .bitH 0 1, sending .bitL 39 1, sending .gap 39 2].all
      (fun e => decide (e.e_bit.toNat ≤ 39)) = true := by decide
theorem witness_ElementHeldUntilTaken :
    let s : State := { withEnc (sending .bitH 5 1) with pending := [.cycle { quiet with req_valid := true }] }
    let ps : List Ports := [{ quiet with req_valid := true }]
    s.Sound ∧ ps ≠ [] ∧
      (∀ p ∈ ps, p.rst = false ∧ (if s.enc.e_state = .idle then p.req_valid else p.out_ready) = false) ∧
      s.pending = ps.map .cycle ++ [] := by decide
theorem witness_ElementHeldUntilTaken_idle :
    let s : State := { State.reset with pending := [.cycle { quiet with out_ready := true }] }
    let ps : List Ports := [{ quiet with out_ready := true }]
    s.Sound ∧ ps ≠ [] ∧
      (∀ p ∈ ps, p.rst = false ∧ (if s.enc.e_state = .idle then p.req_valid else p.out_ready) = false) ∧
      s.pending = ps.map .cycle ++ [] := by decide
/-- R249's three endings, and none. -/
theorem witness_EncoderStatusOnlyAtEndings :
    let run (e : Encoder) (p : Ports) : Option (Bool × EncCode) :=
      after (clockEdge p (withEnc e)) fun s => (s.enc.enc_done, s.enc.enc_code)
    run Encoder.reset { quiet with req_valid := true } = some (true, .unknownCommand) ∧
      run Encoder.reset { quiet with req_valid := true, req_word := 0x221234567 } = some (true, .badRepeat) ∧
      run (sending .bitL 39 1) { quiet with out_ready := true } = some (true, .ok) ∧
      run (sending .bitL 38 1) { quiet with out_ready := true } = some (false, .none) ∧
      run (sending .bitL 39 1) quiet = some (false, .none) ∧
      run (sending .bitL 39 1) { quiet with rst := true } = some (false, .none) := by decide
theorem witness_EncodedSequenceShape : 1 ≤ 1 ∧ byteFromCommand .up = .ok 0x11 := ⟨Nat.le_refl 1, rfl⟩
theorem witness_EncoderAgreesWithEncode :
    Encoder.reset.check Config.cfg = none ∧ Encoder.reset.e_state = .idle ∧
      encodeFrame (Config.withGap 0) 1 2 .unknown 0 = .error .unknownCommand ∧
      encodeFrame (Config.withGap 0) 1 2 .up 0 = .error .badRepeat ∧
      ∃ seq, encodeFrame (Config.withGap 0) 1 2 .up 1 = .ok seq := ⟨by decide, rfl, rfl, rfl, _, rfl⟩
theorem witness_EncodingTakes83nCycles :
    let q : Ports := { quiet with req_valid := true, req_word := 0x530ABCDEF }
    let ps : List Ports := List.replicate 82 { quiet with out_ready := true }
    let s : State := { State.reset with pending := .cycle q :: (ps.map .cycle ++ []) }
    s.Sound ∧ s.enc.e_state = .idle ∧ q.rst = false ∧ q.req_valid = true ∧
      decodeRequest Config.cfg q.req_word = .encReq 0x0ABCDEF 3 .up 1 ∧ byteFromCommand .up = .ok 0x11 ∧ (1 : Nat) ≠ 0 ∧
      ps.length = 83 * 1 - 1 ∧ (∀ x ∈ ps, x.rst = false ∧ x.out_ready = true) ∧
      s.pending = .cycle q :: (ps.map .cycle ++ []) :=
  ⟨by decide, rfl, rfl, rfl, rfl, rfl, by decide, rfl, by decide, rfl⟩
theorem witness_RoundTripLaw : nominalsClassify (Config.withGap 0) = true ∧ Command.up ≠ .unknown := by decide
theorem witness_EncodeDecode :
    (PortWord.token 0x3FFFF).onPort Config.cfg = true ∧ decode Config.cfg (.token 0x3FFFF) = .ok .decEnd ∧
      (PortWord.token 0x1FFFF).onPort Config.cfg = true ∧ decode Config.cfg (.token 0x1FFFF) = .ok (.decPulse .high 65535) :=
  ⟨rfl, rfl, rfl, rfl⟩
theorem witness_AckStarTakesEveryElementLeft :
    [sending .syncH 0 1, sending .gap 39 2, sending .bitL 39 1, Encoder.finish .badRepeat Encoder.reset, Encoder.reset].map
        (fun e => (decide (withEnc e).Sound, e.enc_done, e.e_state == .idle)) =
      [(true, false, false), (true, false, false), (true, false, false), (true, true, true), (true, false, true)] := by
  decide +kernel

end Sys2Proof.Tests
end

/-! PROOFS. The family `10_state`: the configuration (R20–R23) and the result registers (R38, R41–R43). -/

namespace Sys2Proof.Machine

/-! ## The configuration (R20–R23) -/

theorem onDecoder_cfg {f : Decoder → Decoder} {s t : State} (h : onDecoder f s = .next t) : t.cfg = s.cfg := by
  obtain ⟨-, rfl⟩ := onDecoder_eq_next.1 h
  rfl

theorem onEncoder_cfg {f : Encoder → Encoder} {s t : State} (h : onEncoder f s = .next t) : t.cfg = s.cfg := by
  obtain ⟨-, rfl⟩ := onEncoder_eq_next.1 h
  rfl

theorem onFunction_cfg {out : FnOut} {s t : State} (h : onFunction out s = .next t) : t.cfg = s.cfg := by
  obtain ⟨-, rfl⟩ := onFunction_eq_next.1 h
  rfl

theorem execReset_cfg {s t : State} (h : execReset s = .next t) : t.cfg = s.cfg := by
  cases h
  rfl

/-- A transaction never writes the configuration (R23): each is a step of one agent, of a function, or reset. -/
theorem exec_cfg {i : Instr} {s t : State} (h : exec i s = .next t) : t.cfg = s.cfg := by
  cases i with
  | decPulse | decEnd => exact onDecoder_cfg h
  | encReq | encAck => exact onEncoder_cfg h
  | reset => exact execReset_cfg h
  | classifyBit | classifySync | cmdFromByte | byteFromCmd => exact onFunction_cfg h

/-- W2 of R22 for the default configuration: the gap is the only constant that is not a literal. -/
theorem withGap_constantsFit (gap : BitVec Config.DUR_W) : constantsFit (Config.withGap gap) = true := by
  have hgap : (Config.withGap gap).fitsDur gap.toNat = true := Cfg.fitsDur_iff.2 gap.isLt
  exact Bool.and_eq_true_iff.2 ⟨hgap, rfl⟩

/-- R22 for the default configuration. -/
theorem withGap_wellFormed (gap : BitVec Config.DUR_W) : (Config.withGap gap).wellFormed = true := by
  have ordered : windowsOrdered (Config.withGap gap) = true := rfl
  have classify : nominalsClassify (Config.withGap gap) = true := rfl
  simp only [Cfg.wellFormed, ordered, withGap_constantsFit, classify, Bool.and_self]

/-! ## The result registers (R42) -/

/-- The registers that make up the result word (R42, R94). -/
structure Result where
  kind : ResKind
  idx : BitVec 6
  pilot : PilotId
  roller : RollerId
  cbyte : CmdByte
  cmd : Command
  lvlerr : Bool

/-- What the decoder's result registers hold. -/
def Decoder.result (r : Decoder) : Result :=
  ⟨r.res_kind, r.res_idx, r.res_pilot, r.res_roller, r.res_cbyte, r.res_cmd, r.res_lvlerr⟩

/-- The result word is read from the result registers alone (R94). -/
theorem Decoder.resultWord_congr {r r' : Decoder} (h : r.result = r'.result) : r.resultWord = r'.resultWord := by
  simp only [Decoder.result, Result.mk.injEq] at h
  obtain ⟨hkind, hidx, hpilot, hroller, hcbyte, hcmd, hlvlerr⟩ := h
  simp only [Decoder.resultWord, hkind, hidx, hpilot, hroller, hcbyte, hcmd, hlvlerr]

@[simp] theorem Decoder.idle_result (r : Decoder) : r.idle.result = r.result := rfl

@[simp] theorem Decoder.clearBurst_result (r : Decoder) : r.clearBurst.result = r.result := rfl

/-- Judging a pulse writes working registers only (R164, R166). -/
@[simp] theorem Decoder.judge_result (c : Cfg) (d : Nat) (r : Decoder) : (r.judge c d).result = r.result := by
  unfold Decoder.judge
  split
  · rfl
  · split
    · split <;> rfl
    · split
      · split <;> rfl
      · rfl

/-! ## When a cycle publishes (R41, R43, R165) -/

/-- The cycle's token completes a burst: in `COLLECT`, an END or the PULSE with index 81. -/
def Decoder.Publishes (c : Cfg) (p : Ports) (r : Decoder) : Prop :=
  p.in_valid = true ∧ r.d_phase = .collect ∧ (isEnd c p.in_word = true ∨ r.d_cnt.toNat = 81)

theorem Decoder.cnt_eq_81_iff {r : Decoder} : r.d_cnt = 81 ↔ r.d_cnt.toNat = 81 := by
  rw [← BitVec.toNat_inj]
  rfl

/-- A PULSE in `DRAIN`, or at another index than 81, leaves the result registers and drops the strobe (R38, R170). -/
theorem Decoder.pulse_keeps_result {c : Cfg} {lv : Level} {d : Nat} {r : Decoder}
    (h : r.d_phase = .collect → r.d_cnt ≠ 81) :
    (r.pulse c lv d).res_valid = false ∧ (r.pulse c lv d).result = r.result := by
  unfold Decoder.pulse
  split
  next => exact ⟨rfl, rfl⟩
  next hcollect =>
    rw [if_neg (h hcollect)]
    exact ⟨rfl, r.judge_result c d⟩

/-- The PULSE at index 81 publishes what the burst came to (R165, R170). -/
theorem Decoder.pulse_publishes {c : Cfg} {lv : Level} {d : Nat} {r : Decoder} (hcollect : r.d_phase = .collect)
    (hcnt : r.d_cnt = 81) :
    r.pulse c lv d =
      { ((r.judge c d).publish (r.judge c d).d_err.resKind (r.judge c d).d_eidx (r.judge c d).d_acc
          (r.lvlAfter lv)).clearBurst with d_phase := .drain } := by
  simp only [Decoder.pulse, hcollect, if_pos hcnt]

/-- A cycle that completes no burst leaves the result registers and drops the strobe. -/
theorem Decoder.turn_keeps_result {c : Cfg} {p : Ports} {r : Decoder} (h : ¬ r.Publishes c p) :
    (r.turn c p).res_valid = false ∧ (r.turn c p).result = r.result := by
  unfold Decoder.turn
  split
  next hvalid =>
    split
    next hend =>
      have hdrain : r.d_phase ≠ .collect := fun hcollect => h ⟨hvalid, hcollect, .inl hend⟩
      unfold Decoder.endBurst
      split
      next => exact ⟨rfl, rfl⟩
      next hcollect => exact absurd hcollect hdrain
    next =>
      exact Decoder.pulse_keeps_result fun hcollect hcnt =>
        h ⟨hvalid, hcollect, .inr (Decoder.cnt_eq_81_iff.1 hcnt)⟩
  next => exact ⟨rfl, rfl⟩

/-- A cycle that completes a burst publishes: `TOO_SHORT` at an END, the burst's own result at index 81. -/
theorem Decoder.turn_publishes {c : Cfg} {p : Ports} {r : Decoder} (h : r.Publishes c p) :
    (r.turn c p).res_valid = true ∧
      ((r.turn c p).result = (r.publish .tooShort 0 0 r.d_lvl).result ∨
        r.d_cnt = 81 ∧ ∃ d lvl, (r.turn c p).result =
          ((r.judge c d).publish (r.judge c d).d_err.resKind (r.judge c d).d_eidx (r.judge c d).d_acc lvl).result) := by
  obtain ⟨hvalid, hcollect, hlast⟩ := h
  rw [Decoder.turn, if_pos hvalid]
  split
  next =>
    simp only [Decoder.endBurst, hcollect]
    exact ⟨rfl, .inl rfl⟩
  next hpulse =>
    have hcnt : r.d_cnt = 81 := Decoder.cnt_eq_81_iff.2 (hlast.resolve_left hpulse)
    rw [Decoder.pulse_publishes hcollect hcnt]
    exact ⟨Decoder.publish_res_valid .., .inr ⟨hcnt, _, _, rfl⟩⟩

/-- The strobe follows the publication (R43). -/
theorem Decoder.turn_res_valid_iff {c : Cfg} {p : Ports} {r : Decoder} :
    (r.turn c p).res_valid = true ↔ r.Publishes c p := by
  refine ⟨fun hvalid => by_contra fun h => ?_, fun h => (Decoder.turn_publishes h).1⟩
  rw [(Decoder.turn_keeps_result h).1] at hvalid
  cases hvalid

/-! ## Which results are published (R42) -/

/-- No frame is reported. -/
def Result.NoFrame (x : Result) : Prop := x.pilot = 0 ∧ x.roller = 0 ∧ x.cbyte = 0 ∧ x.cmd.code = 0

/-- The results R42 lists for a completed burst. -/
def Result.Published (x : Result) : Prop :=
  (x.kind = .ok ∧ x.idx = 0 ∧ x.cmd = commandFromByte x.cbyte) ∨
  (x.kind = .bitError ∧ x.NoFrame ∧ x.idx.toNat ≤ 39) ∨
  ((x.kind = .tooShort ∨ x.kind = .syncMismatch) ∧ x.NoFrame ∧ x.idx = 0)

/-- R42's `NONE`, before any burst is completed. -/
def Result.Blank (x : Result) : Prop := x.kind = .none ∧ x.NoFrame ∧ x.idx = 0 ∧ x.lvlerr = false

theorem Decoder.reset_blank : Decoder.reset.result.Blank := ⟨rfl, ⟨rfl, rfl, rfl, rfl⟩, rfl, rfl⟩

/-- `publish` of a kind that bursts have, with a bit index that a frame has, writes a result of R42's list. -/
theorem Decoder.publish_published {kind : ResKind} {idx : BitVec 6} (acc : Code40) (lvl : Bool) (r : Decoder)
    (hkind : kind = .ok ∨ kind = .tooShort ∨ kind = .syncMismatch ∨ kind = .bitError)
    (hidx : kind = .bitError → idx.toNat ≤ 39) : (r.publish kind idx acc lvl).result.Published := by
  have noFrame : (⟨kind, idx, 0, 0, 0, .unknown, lvl⟩ : Result).NoFrame := ⟨rfl, rfl, rfl, rfl⟩
  rcases hkind with rfl | rfl | rfl | rfl
  · exact .inl ⟨rfl, rfl, rfl⟩
  · exact .inr (.inr ⟨.inl rfl, noFrame, rfl⟩)
  · exact .inr (.inr ⟨.inr rfl, noFrame, rfl⟩)
  · exact .inr (.inl ⟨rfl, noFrame, hidx rfl⟩)

theorem DErr.resKind_cases (e : DErr) :
    e.resKind = .ok ∨ e.resKind = .tooShort ∨ e.resKind = .syncMismatch ∨ e.resKind = .bitError := by
  cases e <;> decide

/-- The failing pair that index 81 may latch is 39, the last (R166). -/
theorem Decoder.judge_d_eidx_le {c : Cfg} {d : Nat} {r : Decoder} (hidx : r.d_eidx.toNat ≤ 39) (hcnt : r.d_cnt = 81) :
    (r.judge c d).d_eidx.toNat ≤ 39 := by
  have hlast : (bitIndexOf r.d_cnt).toNat ≤ 39 := by
    rw [hcnt]
    decide
  unfold Decoder.judge
  split
  · exact hidx
  · split
    · split <;> exact hidx
    · split
      · split
        · exact hlast
        · exact hidx
        · exact hidx
      · exact hidx

/-- The result registers of a decoder that may step hold a result of R42's list or the blank one. -/
theorem Decoder.result_of_check {c : Cfg} {r : Decoder} (h : r.check c = none) : r.result.Published ∨ r.result.Blank := by
  obtain ⟨-, -, -, ⟨h5, h6, h7⟩, -, hframe, hcmd, hidx, hidx39, hlvlerr, -⟩ := Decoder.check_eq_none.1 h
  have noFrame (hk : r.res_kind ≠ .ok) : r.result.NoFrame := by
    obtain ⟨hpilot, hroller, hcbyte⟩ := hframe hk
    have hunknown : r.res_cmd = .unknown := by
      rw [hcmd, hcbyte]
      decide
    exact ⟨hpilot, hroller, hcbyte, congrArg Command.code hunknown⟩
  cases hk : r.res_kind with
  | none => exact .inr ⟨hk, noFrame (by simp [hk]), hidx (by simp [hk]), hlvlerr hk⟩
  | ok => exact .inl (.inl ⟨hk, hidx (by simp [hk]), hcmd⟩)
  | tooShort => exact .inl (.inr (.inr ⟨.inl hk, noFrame (by simp [hk]), hidx (by simp [hk])⟩))
  | syncMismatch => exact .inl (.inr (.inr ⟨.inr hk, noFrame (by simp [hk]), hidx (by simp [hk])⟩))
  | bitError => exact .inl (.inr (.inl ⟨hk, noFrame (by simp [hk]), hidx39⟩))
  | code5 => exact absurd hk h5
  | code6 => exact absurd hk h6
  | code7 => exact absurd hk h7

/-- A cycle that completes a burst leaves a result of R42's list. -/
theorem Decoder.turn_published {c : Cfg} {p : Ports} {r : Decoder} (hcheck : r.check c = none) (h : r.Publishes c p) :
    (r.turn c p).result.Published := by
  obtain ⟨-, -, hidx, -⟩ := Decoder.check_eq_none.1 hcheck
  obtain ⟨-, heq | ⟨hcnt, d, lvl, heq⟩⟩ := Decoder.turn_publishes h <;> rw [heq]
  · exact Decoder.publish_published 0 r.d_lvl r (.inr (.inl rfl)) nofun
  · exact Decoder.publish_published _ lvl _ (DErr.resKind_cases _) fun _ => Decoder.judge_d_eidx_le hidx hcnt

/-- What a step can do to the result registers: publish, keep them, or reset them. -/
theorem step_result_cases {s t : State} (h : step s = .next t) :
    t.dec.result.Published ∨ t.dec.result = s.dec.result ∨
      t.dec = Decoder.reset ∧ ∃ p rest, s.pending = .cycle p :: rest ∧ p.rst = true := by
  rcases step_cases h with ⟨p, -, -, hcheck, -, rfl⟩ | ⟨p, rest, hs, hp, rfl⟩ | ⟨f, rest, -, -, -, rfl⟩
  · by_cases hpub : s.dec.Publishes s.cfg p
    · exact .inl (Decoder.turn_published hcheck hpub)
    · exact .inr (.inl (Decoder.turn_keeps_result hpub).2)
  · exact .inr (.inr ⟨rfl, p, rest, hs, hp⟩)
  · exact .inr (.inl rfl)

/-- A cycle without reset that goes on gives the decoder its turn. -/
theorem step_cycle_dec {s t : State} {p : Ports} {rest : List Stimulus} (hs : s.pending = .cycle p :: rest)
    (hp : p.rst = false) (h : step s = .next t) : t.dec = s.dec.turn s.cfg p := by
  simp only [step, hs, respond, clockEdge_eq_next hp] at h
  obtain ⟨-, -, rfl⟩ := h
  rfl

/-! ## The obligations of the family -/

/-- Settles O27: a cycle's turn strobes exactly when it completes a burst, and keeps the result registers otherwise. -/
theorem resultChangesOnlyAtPublication : Obligations.ResultChangesOnlyAtPublication := by
  intro s t p rest hs hp h
  rw [step_cycle_dec hs hp h]
  exact ⟨Decoder.turn_res_valid_iff, fun hpub => Decoder.resultWord_congr (Decoder.turn_keeps_result hpub).2⟩

/-- Settles O28: a step publishes a result of R42's list, keeps the one of a sound decoder, or resets. -/
theorem failedResultCarriesNoFrame : Obligations.FailedResultCarriesNoFrame := by
  intro s t hsound h
  have hlist : t.dec.result.Published ∨ t.dec.result.Blank ∧
      (s.dec.res_kind = .none ∨ ∃ p rest, s.pending = .cycle p :: rest ∧ p.rst = true) := by
    rcases step_result_cases h with hpub | hkept | ⟨hreset, hinput⟩
    · exact .inl hpub
    · rw [hkept]
      exact (Decoder.result_of_check hsound.1).imp_right fun hblank => ⟨hblank, .inl hblank.1⟩
    · rw [hreset]
      exact .inr ⟨Decoder.reset_blank, .inr hinput⟩
  obtain (hok | hbit | hfailed) | ⟨⟨hkind, hframe, hidx, hlvlerr⟩, hfirst⟩ := hlist
  · exact .inl hok
  · exact .inr (.inl hbit)
  · exact .inr (.inr (.inl hfailed))
  · exact .inr (.inr (.inr ⟨hkind, hframe, hidx, hlvlerr, hfirst⟩))

/-- Settles O9. -/
theorem configurationNeverChanges : Obligations.ConfigurationNeverChanges :=
  ⟨fun _ _ _ => exec_cfg, fun _ _ => step_cfg⟩

/-- Settles O26: a PULSE at another index than 81 is one that keeps the result registers. -/
theorem pulseInsideBurstKeepsResult : Obligations.PulseInsideBurstKeepsResult := by
  intro s lv d hcheck hcnt
  obtain ⟨hvalid, hresult⟩ := Decoder.pulse_keeps_result (c := s.cfg) (lv := lv) (d := d) (r := s.dec)
    fun _ h => hcnt (Decoder.cnt_eq_81_iff.1 h)
  exact ⟨_, onDecoder_eq_next.2 ⟨hcheck, rfl⟩, hvalid, Decoder.resultWord_congr hresult, rfl⟩

/-- Settles O49: the values are R21's literals; that they are well formed is `withGap_wellFormed`. -/
theorem defaultConfiguration : Obligations.DefaultConfiguration :=
  ⟨rfl, rfl, fun gap => ⟨rfl, rfl, rfl, rfl, rfl, withGap_wellFormed gap⟩⟩

end Sys2Proof.Machine

/-! PROOFS. The family `20_memory`: the agents share no register (R70). -/

namespace Sys2Proof.Machine

/-! ## What each kind of transaction leaves alone -/

theorem onDecoder_frame {f : Decoder → Decoder} {s t : State} (h : onDecoder f s = .next t) :
    t.pending = s.pending ∧ t.enc = s.enc ∧ t.fn_out = s.fn_out := by
  obtain ⟨-, rfl⟩ := onDecoder_eq_next.1 h
  exact ⟨rfl, rfl, rfl⟩

theorem onEncoder_frame {f : Encoder → Encoder} {s t : State} (h : onEncoder f s = .next t) :
    t.pending = s.pending ∧ t.dec = s.dec ∧ t.fn_out = s.fn_out := by
  obtain ⟨-, rfl⟩ := onEncoder_eq_next.1 h
  exact ⟨rfl, rfl, rfl⟩

theorem onFunction_frame {out : FnOut} {s t : State} (h : onFunction out s = .next t) :
    t.pending = s.pending ∧ t.dec = s.dec ∧ t.enc = s.enc := by
  obtain ⟨-, rfl⟩ := onFunction_eq_next.1 h
  exact ⟨rfl, rfl, rfl⟩

theorem execReset_frame {s t : State} (h : execReset s = .next t) :
    t.pending = s.pending ∧ t.fn_out = s.fn_out := by
  cases h
  exact ⟨rfl, rfl⟩

/-! ## What a clock cycle's effect on an agent depends on -/

/-- The decoder's turn samples the token port only (R96). -/
theorem Decoder.turn_congr {c : Cfg} {p q : Ports} {r : Decoder} (hvalid : p.in_valid = q.in_valid)
    (hword : p.in_word = q.in_word) : r.turn c p = r.turn c q := by
  simp only [Decoder.turn, hvalid, hword]

/-- The encoder's turn samples the request port and `out_ready` only (R96). -/
theorem Encoder.turn_congr {c : Cfg} {p q : Ports} {e : Encoder} (hvalid : p.req_valid = q.req_valid)
    (hword : p.req_word = q.req_word) (hready : p.out_ready = q.out_ready) : e.turn c p = e.turn c q := by
  simp only [Encoder.turn, hvalid, hword, hready]

/-- The registers after a clock cycle that goes on, each agent's from its own (R70, R303, R340). -/
theorem clockEdge_registers {p : Ports} {s t : State} (h : clockEdge p s = .next t) :
    t.dec = (if p.rst then Decoder.reset else s.dec.turn s.cfg p) ∧
      t.enc = (if p.rst then Encoder.reset else s.enc.turn s.cfg p) := by
  cases hp : p.rst with
  | true =>
    rw [clockEdge_reset hp] at h
    cases h
    exact ⟨rfl, rfl⟩
  | false =>
    obtain ⟨-, -, rfl⟩ := (clockEdge_eq_next hp).1 h
    exact ⟨rfl, rfl⟩

/-! ## The obligations of the family -/

/-- Settles O13: a cycle computes each agent's registers from its own, by a turn that samples only its own ports. -/
theorem agentsAreIndependent : Obligations.AgentsAreIndependent := by
  intro s₁ s₂ t₁ t₂ p₁ p₂ hcfg hrst h₁ h₂
  obtain ⟨hdec₁, henc₁⟩ := clockEdge_registers h₁
  obtain ⟨hdec₂, henc₂⟩ := clockEdge_registers h₂
  constructor
  · intro hdec hvalid hword
    rw [hdec₁, hdec₂, hrst, hcfg, hdec, Decoder.turn_congr hvalid hword]
  · intro henc hvalid hword hready
    rw [henc₁, henc₂, hrst, hcfg, henc, Encoder.turn_congr hvalid hword hready]

/-- Settles O16: each transaction is a step of one agent, of an internal function, or reset, with that step's frame. -/
theorem transactionsKeepTheOtherAgent : Obligations.TransactionsKeepTheOtherAgent := by
  intro i s t h
  refine ⟨exec_cfg h, ?_⟩
  cases i with
  | decPulse | decEnd => exact onDecoder_frame h
  | encReq | encAck => exact onEncoder_frame h
  | reset => exact execReset_frame h
  | classifyBit | classifySync | cmdFromByte | byteFromCmd => exact onFunction_frame h

end Sys2Proof.Machine

/-! PROOFS. The family `30_encoding`: the words of the ports (R80–R97) and `ACK*` (R100). -/

namespace Sys2Proof

/-! ## Codes and their inverses (R87, R90) -/

@[simp] theorem Level.ofCode_code (lv : Level) : Level.ofCode lv.code = lv := by
  cases lv <;> rfl

@[simp] theorem Level.code_ofCode (b : BitVec 1) : (Level.ofCode b).code = b := by
  revert b
  decide

@[simp] theorem Command.ofCode_code (cmd : Command) : Command.ofCode cmd.code = cmd := by
  cases cmd <;> rfl

@[simp] theorem Command.code_ofCode (b : BitVec 2) : (Command.ofCode b).code = b := by
  revert b
  decide

/-! ## What decodes to a transaction (R97) -/

theorem decodeToken_cases (c : Cfg) (w : Nat) :
    decodeToken c w = .decEnd ∨ ∃ lv d, decodeToken c w = .decPulse lv d := by
  unfold decodeToken
  split
  · exact .inl rfl
  · exact .inr ⟨_, _, rfl⟩

theorem decode_outReady_eq_ok {c : Cfg} {w : BitVec 1} {i : Instr} :
    decode c (.outReady w) = .ok i ↔ w = 1 ∧ i = .encAck := by
  simp only [decode]
  split <;> simp_all [eq_comm]

theorem decode_rst_eq_ok {c : Cfg} {w : BitVec 1} {i : Instr} : decode c (.rst w) = .ok i ↔ w = 1 ∧ i = .reset := by
  simp only [decode]
  split <;> simp_all [eq_comm]

theorem decodeTableWord_eq_some {nbits w : Nat} {i : Instr} :
    decodeTableWord nbits w = some i ↔ ∃ pw, tableWord nbits w = some pw ∧ decode Config.cfg pw = .ok i := by
  unfold decodeTableWord
  split
  next pw hpw => split <;> simp_all
  next hnone => simp [hnone]

/-! ## Fields side by side -/

/-- A field of `n` bits above `k` bits makes `n + k` bits. -/
theorem mul_two_pow_add_lt {a l n k : Nat} (ha : a < 2 ^ n) (hl : l < 2 ^ k) : a * 2 ^ k + l < 2 ^ (n + k) := by
  calc a * 2 ^ k + l < (a + 1) * 2 ^ k := by
        rw [Nat.succ_mul]
        exact Nat.add_lt_add_left hl _
    _ ≤ 2 ^ n * 2 ^ k := Nat.mul_le_mul_right _ ha
    _ = 2 ^ (n + k) := (Nat.pow_add ..).symm

/-- Two adjacent fields that reach the top of a word make it up. -/
theorem bitField_join {v n k : Nat} (h : v < 2 ^ (n + k)) : bitField v n k * 2 ^ n + bitField v 0 n = v := by
  rw [bitField_top h, bitField, Nat.pow_zero, Nat.div_one, Nat.div_add_mod']

/-! ## Reading an encoded word (R88, R93, R97) -/

theorem encodePulse_lt {c : Cfg} {d : Nat} (lv : Level) (hd : d < 2 ^ c.DUR_W) :
    encodePulse c lv d < 2 ^ (c.DUR_W + 1) :=
  token_lt hd lv.code.isLt

theorem decodeToken_encodePulse {c : Cfg} {d : Nat} (lv : Level) (hd : d < 2 ^ c.DUR_W) :
    decodeToken c (encodePulse c lv d) = .decPulse lv d := by
  have hkind : isEnd c (encodePulse c lv d) = false := Nat.testBit_lt_two_pow (encodePulse_lt lv hd)
  have hlevel : bitField (encodePulse c lv d) c.DUR_W 1 = lv.code.toNat :=
    (bitField_high hd).trans (Nat.mod_eq_of_lt lv.code.isLt)
  have hdur : bitField (encodePulse c lv d) 0 c.DUR_W = d := bitField_low hd
  simp [decodeToken, hkind, hlevel, hdur]

theorem isEnd_encodeEnd (c : Cfg) : isEnd c (encodeEnd c) = true := Nat.testBit_two_pow_self

theorem decodeToken_of_isEnd {c : Cfg} {w : Nat} (h : isEnd c w = true) : decodeToken c w = .decEnd := if_pos h

theorem encodeRequest_lt {c : Cfg} {n : Nat} (p : PilotId) (r : RollerId) (cmd : Command) (hn : n < 2 ^ c.R_W) :
    encodeRequest p r cmd n < 2 ^ (34 + c.R_W) := by
  have hp := p.isLt
  have hr := r.isLt
  have hc := cmd.code.isLt
  have hlow : cmd.code.toNat * 2 ^ 32 + r.toNat * 2 ^ 28 + p.toNat < 2 ^ 34 := by omega
  rw [Nat.add_comm 34]
  exact (mul_two_pow_add_lt hn hlow).trans_eq' (by simp only [encodeRequest, Nat.add_assoc])

theorem decodeRequest_encodeRequest {c : Cfg} {n : Nat} (p : PilotId) (r : RollerId) (cmd : Command)
    (hn : n < 2 ^ c.R_W) : decodeRequest c (encodeRequest p r cmd n) = .encReq p r cmd n := by
  have hp := p.isLt
  have hr := r.isLt
  have hc := cmd.code.isLt
  have hpilot : bitField (encodeRequest p r cmd n) 0 28 = p.toNat := by
    unfold bitField encodeRequest
    omega
  have hroller : bitField (encodeRequest p r cmd n) 28 4 = r.toNat := by
    unfold bitField encodeRequest
    omega
  have hcmd : bitField (encodeRequest p r cmd n) 32 2 = cmd.code.toNat := by
    unfold bitField encodeRequest
    omega
  have hrep : bitField (encodeRequest p r cmd n) 34 c.R_W = n := by
    rw [bitField_top (encodeRequest_lt p r cmd hn)]
    unfold encodeRequest
    omega
  simp [decodeRequest, hpilot, hroller, hcmd, hrep]

theorem encodePair_lt {c : Cfg} {h l : Nat} (hh : h < 2 ^ c.DUR_W) (hl : l < 2 ^ c.DUR_W) :
    encodePair c h l < 2 ^ (2 * c.DUR_W) := by
  rw [Nat.two_mul]
  exact mul_two_pow_add_lt hh hl

theorem bitField_encodePair_high {c : Cfg} {h l : Nat} (hh : h < 2 ^ c.DUR_W) (hl : l < 2 ^ c.DUR_W) :
    bitField (encodePair c h l) c.DUR_W c.DUR_W = h :=
  (bitField_high hl).trans (Nat.mod_eq_of_lt hh)

theorem bitField_encodePair_low {c : Cfg} {l : Nat} (h : Nat) (hl : l < 2 ^ c.DUR_W) :
    bitField (encodePair c h l) 0 c.DUR_W = l :=
  bitField_low hl

/-- Settles O50: row by row, the fields of a word do not overlap. -/
theorem decodeEncode : Obligations.DecodeEncode := by
  intro c i hfit
  rw [PortWord.onPort_iff]
  cases i with
  | decPulse lv d =>
    have hd : d < 2 ^ c.DUR_W := Cfg.fitsDur_iff.1 hfit
    exact ⟨congrArg Except.ok (decodeToken_encodePulse lv hd),
      (encodePulse_lt lv hd).trans (Nat.pow_lt_pow_succ Nat.one_lt_two)⟩
  | decEnd =>
    exact ⟨congrArg Except.ok (decodeToken_of_isEnd (isEnd_encodeEnd c)), Nat.pow_lt_pow_succ Nat.one_lt_two⟩
  | encReq p r cmd n =>
    have hn : n < 2 ^ c.R_W := Cfg.fitsRep_iff.1 hfit
    exact ⟨congrArg Except.ok (decodeRequest_encodeRequest p r cmd hn), encodeRequest_lt p r cmd hn⟩
  | encAck | reset => exact ⟨rfl, Nat.one_lt_two⟩
  | classifyBit h l | classifySync h l =>
    obtain ⟨hh, hl⟩ := Bool.and_eq_true_iff.1 hfit
    rw [Cfg.fitsDur_iff] at hh hl
    refine ⟨?_, encodePair_lt hh hl⟩
    simp only [encode, decode, decodeCall, bitField_encodePair_high hh hl, bitField_encodePair_low h hl]
  | cmdFromByte b => exact ⟨rfl, b.isLt⟩
  | byteFromCmd cmd => exact ⟨by simp [encode, decode, decodeCall], cmd.code.isLt⟩

/-! ## Encoding what was read (R88, R89, R93, R97) -/

/-- A token of its port that is no END has no bit above `level`. -/
theorem token_lt_of_not_isEnd {c : Cfg} {w : Nat} (hw : w < 2 ^ (c.DUR_W + 2)) (h : isEnd c w = false) :
    w < 2 ^ (c.DUR_W + 1) := by
  refine Nat.lt_pow_two_of_testBit w fun j hj => ?_
  rcases hj.eq_or_lt with rfl | hj
  · exact h
  · exact Nat.testBit_lt_two_pow (hw.trans_le (Nat.pow_le_pow_right Nat.two_pos hj))

theorem toNat_ofNat_bitField (v lo n : Nat) : (BitVec.ofNat n (bitField v lo n)).toNat = bitField v lo n :=
  Nat.mod_eq_of_lt (bitField_lt v lo n)

theorem encodePulse_bitFields {c : Cfg} {w : Nat} (hw : w < 2 ^ (c.DUR_W + 1)) :
    encodePulse c (Level.ofCode (BitVec.ofNat 1 (bitField w c.DUR_W 1))) (bitField w 0 c.DUR_W) = w := by
  rw [encodePulse, Level.code_ofCode, toNat_ofNat_bitField, bitField_join hw]

theorem encodeRequest_bitFields {c : Cfg} {w : Nat} (hw : w < 2 ^ (34 + c.R_W)) :
    encodeRequest (BitVec.ofNat 28 (bitField w 0 28)) (BitVec.ofNat 4 (bitField w 28 4))
      (Command.ofCode (BitVec.ofNat 2 (bitField w 32 2))) (bitField w 34 c.R_W) = w := by
  simp only [encodeRequest, Command.code_ofCode, toNat_ofNat_bitField, bitField_top hw]
  unfold bitField
  omega

theorem encodePair_bitFields {c : Cfg} {w : Nat} (hw : w < 2 ^ (2 * c.DUR_W)) :
    encodePair c (bitField w c.DUR_W c.DUR_W) (bitField w 0 c.DUR_W) = w :=
  bitField_join (by rwa [← Nat.two_mul])

/-- The two operands of a pair word fit. -/
theorem fitsDur_bitFields (c : Cfg) (w : Nat) :
    (c.fitsDur (bitField w c.DUR_W c.DUR_W) && c.fitsDur (bitField w 0 c.DUR_W)) = true :=
  Bool.and_eq_true_iff.2 ⟨Cfg.fitsDur_iff.2 (bitField_lt ..), Cfg.fitsDur_iff.2 (bitField_lt ..)⟩

/-- The operands read from the word of an internal function fit, and give the word back. -/
theorem encode_decodeCall {c : Cfg} {f : FnCall} (hf : (PortWord.call f).bits < 2 ^ (PortWord.call f).width c) :
    (decodeCall c f).operandsFit c = true ∧ encode c (decodeCall c f) = .call f := by
  cases f with
  | classifyBit w =>
    exact ⟨fitsDur_bitFields c w, congrArg (fun v => PortWord.call (.classifyBit v)) (encodePair_bitFields hf)⟩
  | classifySync w =>
    exact ⟨fitsDur_bitFields c w, congrArg (fun v => PortWord.call (.classifySync v)) (encodePair_bitFields hf)⟩
  | cmdFromByte w => exact ⟨rfl, rfl⟩
  | byteFromCmd w => exact ⟨rfl, by simp only [decodeCall, encode, Command.code_ofCode]⟩

/-- Settles O51: port by port, the fields that were read make up the word again. -/
theorem encodeDecode : Obligations.EncodeDecode := by
  intro c w i hport h
  rw [PortWord.onPort_iff] at hport
  cases w with
  | token w =>
    obtain rfl : decodeToken c w = i := Except.ok.inj h
    cases hend : isEnd c w with
    | true =>
      rw [decodeToken_of_isEnd hend]
      exact ⟨rfl, .inr ⟨rfl, w, rfl, hend⟩⟩
    | false =>
      have hpulse : decodeToken c w = _ := if_neg (by simp [hend])
      rw [hpulse]
      exact ⟨Cfg.fitsDur_iff.2 (bitField_lt ..),
        .inl (congrArg PortWord.token (encodePulse_bitFields (token_lt_of_not_isEnd hport hend)))⟩
  | request w =>
    obtain rfl : decodeRequest c w = i := Except.ok.inj h
    exact ⟨Cfg.fitsRep_iff.2 (bitField_lt ..), .inl (congrArg PortWord.request (encodeRequest_bitFields hport))⟩
  | outReady w =>
    obtain ⟨rfl, rfl⟩ := decode_outReady_eq_ok.1 h
    exact ⟨rfl, .inl rfl⟩
  | rst w =>
    obtain ⟨rfl, rfl⟩ := decode_rst_eq_ok.1 h
    exact ⟨rfl, .inl rfl⟩
  | call f =>
    obtain rfl : decodeCall c f = i := Except.ok.inj h
    exact (encode_decodeCall hport).imp_right .inl

/-- Settles O52: the words are literals, and the default configuration's widths compute. -/
theorem writtenWordsDecode : Obligations.WrittenWordsDecode :=
  ⟨rfl, rfl, rfl, rfl, rfl, rfl, rfl, rfl, rfl, rfl, rfl⟩

end Sys2Proof

namespace Sys2Proof.Machine

/-! ## Fields put together by shifts (R81, R94) -/

theorem toNat_setWidth_of_le {n w : Nat} (x : BitVec n) (h : n ≤ w) : (x.setWidth w).toNat = x.toNat := by
  rw [BitVec.toNat_setWidth, Nat.mod_eq_of_lt (x.isLt.trans_le (Nat.pow_le_pow_right Nat.two_pos h))]

/-- A field shifted over bits that the rest leaves free adds up with it. -/
theorem toNat_shifted_or {n k w : Nat} (x : BitVec n) {low : BitVec w} (hfit : n + k ≤ w) (hlow : low.toNat < 2 ^ k) :
    ((x.setWidth w <<< k) ||| low).toNat = x.toNat * 2 ^ k + low.toNat := by
  have hwide : x.toNat * 2 ^ k < 2 ^ w :=
    (Nat.le_add_right ..).trans_lt <|
      (mul_two_pow_add_lt x.isLt hlow).trans_le (Nat.pow_le_pow_right Nat.two_pos hfit)
  rw [BitVec.toNat_or, BitVec.toNat_shiftLeft, toNat_setWidth_of_le x (by omega), Nat.shiftLeft_eq,
    Nat.mod_eq_of_lt hwide, ← Nat.shiftLeft_eq, Nat.shiftLeft_add_eq_or_of_lt hlow]

/-- The next field can stand above the two. -/
theorem toNat_shifted_or_lt {n k w : Nat} (x : BitVec n) {low : BitVec w} (hfit : n + k ≤ w)
    (hlow : low.toNat < 2 ^ k) : ((x.setWidth w <<< k) ||| low).toNat < 2 ^ (n + k) := by
  rw [toNat_shifted_or x hfit hlow]
  exact mul_two_pow_add_lt x.isLt hlow

theorem join40_toNat (p : PilotId) (r : RollerId) (c : CmdByte) :
    (join40 p r c).toNat = p.toNat * 2 ^ 12 + r.toNat * 2 ^ 8 + c.toNat := by
  have hc : (c.setWidth 40).toNat = c.toNat := toNat_setWidth_of_le c (by decide)
  have hc8 : (c.setWidth 40).toNat < 2 ^ 8 := hc.trans_lt c.isLt
  rw [join40, BitVec.or_assoc, toNat_shifted_or p (by decide) (toNat_shifted_or_lt r (by decide) hc8),
    toNat_shifted_or r (by decide) hc8, hc, Nat.add_assoc]

/-- R94's word as the sum of its fields. -/
theorem Decoder.resultWord_toNat (r : Decoder) :
    r.resultWord.toNat = r.res_lvlerr.toNat * 2 ^ 51 + r.res_kind.code.toNat * 2 ^ 48 + r.res_idx.toNat * 2 ^ 42 +
      r.res_cmd.code.toNat * 2 ^ 40 + r.res_pilot.toNat * 2 ^ 12 + r.res_roller.toNat * 2 ^ 8 + r.res_cbyte.toNat := by
  have hc : (r.res_cbyte.setWidth 52).toNat = r.res_cbyte.toNat := toNat_setWidth_of_le _ (by decide)
  have h8 : (r.res_cbyte.setWidth 52).toNat < 2 ^ 8 := hc.trans_lt r.res_cbyte.isLt
  have h12 := toNat_shifted_or_lt r.res_roller (by decide) h8
  have h40 := toNat_shifted_or_lt r.res_pilot (by decide) h12
  have h42 := toNat_shifted_or_lt r.res_cmd.code (by decide) h40
  have h48 := toNat_shifted_or_lt r.res_idx (by decide) h42
  have h51 := toNat_shifted_or_lt r.res_kind.code (by decide) h48
  simp only [Decoder.resultWord, BitVec.or_assoc]
  rw [toNat_shifted_or _ (by decide) h51, toNat_shifted_or _ (by decide) h48, toNat_shifted_or _ (by decide) h42,
    toNat_shifted_or _ (by decide) h40, toNat_shifted_or _ (by decide) h12, toNat_shifted_or _ (by decide) h8, hc,
    BitVec.toNat_ofBool]
  omega

theorem toNat_extractLsb'_eq_bitField {w : Nat} (x : BitVec w) (lo n : Nat) :
    (x.extractLsb' lo n).toNat = bitField x.toNat lo n := by
  rw [BitVec.extractLsb'_toNat, Nat.shiftRight_eq_div_pow, bitField]

/-- A slice of a word is known by its number. -/
theorem extractLsb'_eq_of_bitField {w lo n : Nat} {x : BitVec w} {y : BitVec n} (h : bitField x.toNat lo n = y.toNat) :
    x.extractLsb' lo n = y :=
  BitVec.eq_of_toNat_eq ((toNat_extractLsb'_eq_bitField x lo n).trans h)

/-- A slice of one bit is that bit. -/
theorem getLsbD_of_extractLsb' {w i : Nat} {x : BitVec w} {b : Bool} (h : x.extractLsb' i 1 = BitVec.ofBool b) :
    x.getLsbD i = b := by
  simpa using congrArg (·.getLsbD 0) h

theorem pilotOf_toNat (x : Code40) : (pilotOf x).toNat = x.toNat / 2 ^ 12 := by
  rw [pilotOf, toNat_extractLsb'_eq_bitField, bitField_top x.isLt]

theorem rollerOf_toNat (x : Code40) : (rollerOf x).toNat = x.toNat / 2 ^ 8 % 16 :=
  toNat_extractLsb'_eq_bitField x 8 4

theorem cbyteOf_toNat (x : Code40) : (cbyteOf x).toNat = x.toNat % 256 := by
  rw [cbyteOf, toNat_extractLsb'_eq_bitField, bitField, Nat.pow_zero, Nat.div_one]
  rfl

theorem pilotOf_join40 (p : PilotId) (r : RollerId) (c : CmdByte) : pilotOf (join40 p r c) = p := by
  have hr := r.isLt
  have hc := c.isLt
  refine BitVec.eq_of_toNat_eq ?_
  rw [pilotOf_toNat, join40_toNat]
  omega

theorem rollerOf_join40 (p : PilotId) (r : RollerId) (c : CmdByte) : rollerOf (join40 p r c) = r := by
  have hr := r.isLt
  have hc := c.isLt
  refine BitVec.eq_of_toNat_eq ?_
  rw [rollerOf_toNat, join40_toNat]
  omega

theorem cbyteOf_join40 (p : PilotId) (r : RollerId) (c : CmdByte) : cbyteOf (join40 p r c) = c := by
  have hc := c.isLt
  refine BitVec.eq_of_toNat_eq ?_
  rw [cbyteOf_toNat, join40_toNat]
  omega

theorem join40_fields (x : Code40) : join40 (pilotOf x) (rollerOf x) (cbyteOf x) = x := by
  refine BitVec.eq_of_toNat_eq ?_
  rw [join40_toNat, pilotOf_toNat, rollerOf_toNat, cbyteOf_toNat]
  omega

/-- Settles O47. -/
theorem splitAndJoinAreInverse : Obligations.SplitAndJoinAreInverse :=
  ⟨fun p r c => ⟨join40_toNat p r c, pilotOf_join40 p r c, rollerOf_join40 p r c, cbyteOf_join40 p r c⟩,
    fun x => ⟨join40_fields x, pilotOf_toNat x, rollerOf_toNat x, cbyteOf_toNat x⟩⟩

/-- The kinds a decoder that may step can report, with their codes (R94). -/
theorem Decoder.res_kind_code {c : Cfg} {r : Decoder} (h : r.check c = none) :
    (r.res_kind, r.res_kind.code) ∈
      [(ResKind.none, 0#3), (.ok, 1#3), (.tooShort, 2#3), (.syncMismatch, 3#3), (.bitError, 4#3)] := by
  obtain ⟨-, -, -, ⟨h5, h6, h7⟩, -⟩ := Decoder.check_eq_none.1 h
  cases hk : r.res_kind with
  | none | ok | tooShort | syncMismatch | bitError => decide
  | code5 => exact absurd hk h5
  | code6 => exact absurd hk h6
  | code7 => exact absurd hk h7

/-- The slices of the result word (R94). -/
theorem Decoder.resultWord_slices (r : Decoder) :
    r.resultWord.extractLsb' 51 1 = BitVec.ofBool r.res_lvlerr ∧ r.resultWord.extractLsb' 48 3 = r.res_kind.code ∧
      r.resultWord.extractLsb' 42 6 = r.res_idx ∧ r.resultWord.extractLsb' 40 2 = r.res_cmd.code ∧
      r.resultWord.extractLsb' 12 28 = r.res_pilot ∧ r.resultWord.extractLsb' 8 4 = r.res_roller ∧
      r.resultWord.extractLsb' 0 8 = r.res_cbyte ∧
      r.resultWord.extractLsb' 0 40 = join40 r.res_pilot r.res_roller r.res_cbyte := by
  have hlvlerr := r.res_lvlerr.toNat_lt
  have hkind := r.res_kind.code.isLt
  have hidx := r.res_idx.isLt
  have hcmd := r.res_cmd.code.isLt
  have hpilot := r.res_pilot.isLt
  have hroller := r.res_roller.isLt
  have hcbyte := r.res_cbyte.isLt
  refine ⟨?_, ?_, ?_, ?_, ?_, ?_, ?_, ?_⟩ <;> refine extractLsb'_eq_of_bitField ?_ <;>
    rw [Decoder.resultWord_toNat, bitField]
  case refine_1 =>
    rw [BitVec.toNat_ofBool]
    omega
  case refine_8 =>
    rw [join40_toNat]
    omega
  all_goals omega

/-- Settles O29: each register is its slice of the word. -/
theorem resultWordLayout : Obligations.ResultWordLayout := by
  intro c r hcheck
  obtain ⟨hlvlerr, hkind, hidx, hcmd, hpilot, hroller, hcbyte, hframe⟩ := r.resultWord_slices
  exact ⟨getLsbD_of_extractLsb' hlvlerr, hkind, hidx, hcmd, hpilot, hroller, hcbyte, hframe,
    Decoder.res_kind_code hcheck⟩

/-! ## What a cycle samples (R96, R247, R254) -/

theorem Encoder.reqReady_iff {e : Encoder} : e.reqReady = true ↔ e.e_state = .idle := by simp [Encoder.reqReady]

/-- The token port is sampled only while `in_valid = 1` (93 U13). -/
theorem Decoder.turn_eq_of_sampled {c : Cfg} {p q : Ports} {r : Decoder} (hvalid : p.in_valid = q.in_valid)
    (hword : p.in_valid = true → p.in_word = q.in_word) : r.turn c p = r.turn c q := by
  cases hp : p.in_valid with
  | true => exact Decoder.turn_congr hvalid (hword hp)
  | false => simp only [Decoder.turn, ← hvalid, hp, Bool.false_eq_true, if_false]

/-- The request port is sampled only in `IDLE` while `req_valid = 1`, and `out_ready` only elsewhere (93 U13, U14). -/
theorem Encoder.turn_eq_of_sampled {c : Cfg} {p q : Ports} {e : Encoder}
    (hreq : e.e_state = .idle → p.req_valid = q.req_valid ∧ (p.req_valid = true → p.req_word = q.req_word))
    (hready : e.e_state ≠ .idle → p.out_ready = q.out_ready) : e.turn c p = e.turn c q := by
  by_cases hidle : e.e_state = .idle
  · obtain ⟨hvalid, hword⟩ := hreq hidle
    simp only [Encoder.turn, if_pos (Encoder.reqReady_iff.2 hidle), ← hvalid]
    split
    next hp => rw [hword hp]
    next => rfl
  · simp only [Encoder.turn, if_neg (mt Encoder.reqReady_iff.1 hidle), hready hidle]

theorem onDecoder_congr {f g : Decoder → Decoder} {s : State} (h : f s.dec = g s.dec) :
    onDecoder f s = onDecoder g s := by
  simp only [onDecoder, h]

theorem onEncoder_congr {f g : Encoder → Encoder} {s : State} (h : f s.enc = g s.enc) :
    onEncoder f s = onEncoder g s := by
  simp only [onEncoder, h]

/-- What follows matters only from the state in which the first part goes on. -/
theorem andThen_congr {o : Out} {f g : State → Out} (h : ∀ s, o = .next s → f s = g s) : andThen o f = andThen o g := by
  cases o with
  | next s => exact h s rfl
  | fault | refused => rfl

theorem clockEdge_of_rst_eq_false {p : Ports} (hp : p.rst = false) (s : State) :
    clockEdge p s = andThen (decoderTurn p s) (encoderTurn p) :=
  if_neg (by simp [hp])

/-- Settles O14: each agent's turn depends on what it samples; the encoder's state is the one before the edge. -/
theorem unsampledInputsIgnored : Obligations.UnsampledInputsIgnored := by
  intro s p q hrst hvalid hword hreq hready
  cases hp : p.rst with
  | true => rw [clockEdge_reset hp, clockEdge_reset (hrst ▸ hp)]
  | false =>
    rw [clockEdge_of_rst_eq_false hp, clockEdge_of_rst_eq_false (hrst ▸ hp), decoderTurn_eq, decoderTurn_eq,
      onDecoder_congr (Decoder.turn_eq_of_sampled hvalid hword)]
    refine andThen_congr fun t ht => ?_
    have henc : t.enc = s.enc := (onDecoder_frame ht).2.1
    rw [encoderTurn_eq, encoderTurn_eq]
    exact onEncoder_congr (Encoder.turn_eq_of_sampled (henc ▸ hreq) (henc ▸ hready))

/-! ## The step of a port word (R97, R172, R248) -/

/-- R254: outside `IDLE` a request is not taken. -/
theorem Encoder.request_of_busy {e : Encoder} (h : e.e_state ≠ .idle) (p : PilotId) (r : RollerId) (cmd : Command)
    (n : Nat) : e.request p r cmd n = e.idle :=
  if_neg (mt Encoder.reqReady_iff.1 h)

/-- R247: in `IDLE` nothing is taken. -/
theorem Encoder.ack_of_idle {e : Encoder} (h : e.e_state = .idle) : e.ack = e.idle := by
  simp only [Encoder.ack, h]

/-- A cycle with a request and no `out_ready` is the request's transaction, in `IDLE` and elsewhere. -/
theorem encoderTurn_request (w : Nat) (s : State) :
    encoderTurn { Ports.idle with req_valid := true, req_word := w } s = exec (decodeRequest s.cfg w) s := by
  by_cases hidle : s.enc.e_state = .idle
  · exact if_pos (Encoder.reqReady_iff.2 hidle)
  · calc encoderTurn { Ports.idle with req_valid := true, req_word := w } s
      _ = onEncoder Encoder.idle s := if_neg (mt Encoder.reqReady_iff.1 hidle)
      _ = exec (decodeRequest s.cfg w) s := onEncoder_congr (Encoder.request_of_busy hidle ..).symm

/-- A cycle with `out_ready` and no request takes a handshake, in `IDLE` and elsewhere. -/
theorem Encoder.turn_ack {c : Cfg} {p : Ports} (hreq : p.req_valid = false) (hready : p.out_ready = true)
    (e : Encoder) : e.turn c p = e.ack := by
  by_cases hidle : e.e_state = .idle
  · simp [Encoder.turn, hreq, hready, Encoder.ack_of_idle hidle]
  · simp [Encoder.turn, hready, mt Encoder.reqReady_iff.1 hidle]

/-- A cycle with neither only drops the strobe (R248). -/
theorem Encoder.turn_quiet {c : Cfg} {p : Ports} (hreq : p.req_valid = false) (hready : p.out_ready = false)
    (e : Encoder) : e.turn c p = e.idle := by
  simp [Encoder.turn, hreq, hready]

theorem step_token (w : Nat) (s : State) :
    step (s.offer (stimulusOf (.token w))) = andThen (exec (decodeToken s.cfg w) s) (onEncoder Encoder.idle) := by
  refine andThen_congr fun t _ => ?_
  rw [encoderTurn_eq]
  exact onEncoder_congr (Encoder.turn_quiet rfl rfl _)

theorem step_request (w : Nat) (s : State) :
    step (s.offer (stimulusOf (.request w))) =
      andThen (onDecoder Decoder.idle s) (exec (decodeRequest s.cfg w)) := by
  refine andThen_congr fun t ht => ?_
  have hcfg : t.cfg = s.cfg := onDecoder_cfg ht
  rw [encoderTurn_request, hcfg]

theorem step_outReady (s : State) :
    step (s.offer (stimulusOf (.outReady 1))) = andThen (onDecoder Decoder.idle s) (exec .encAck) := by
  refine andThen_congr fun t _ => ?_
  rw [encoderTurn_eq]
  exact onEncoder_congr (Encoder.turn_ack rfl rfl _)

/-- Settles O11: port by port, and for a bare number by the port word it stands for. -/
theorem stepRunsDecodedTransaction : Obligations.StepRunsDecodedTransaction := by
  refine ⟨fun s w i h => ?_, fun s nbits w i h => ?_⟩
  · cases w with
    | token w =>
      obtain rfl : decodeToken s.cfg w = i := Except.ok.inj h
      have hstep := step_token w s
      rcases decodeToken_cases s.cfg w with hi | ⟨lv, d, hi⟩ <;> rw [hi] at hstep ⊢ <;> exact hstep
    | request w =>
      obtain rfl : decodeRequest s.cfg w = i := Except.ok.inj h
      exact step_request w s
    | outReady w =>
      obtain ⟨rfl, rfl⟩ := decode_outReady_eq_ok.1 h
      exact step_outReady s
    | rst w =>
      obtain ⟨rfl, rfl⟩ := decode_rst_eq_ok.1 h
      rfl
    | call f =>
      obtain rfl : decodeCall s.cfg f = i := Except.ok.inj h
      cases f <;> rfl
  · obtain ⟨pw, hpw, hi⟩ := decodeTableWord_eq_some.1 h
    exact ⟨pw, hi, by simp only [State.withFetchWord, hpw]⟩

/-- Settles O15: an END token is decoded by its kind bit alone, and the step runs what was decoded. -/
theorem endTokenBitsIgnored : Obligations.EndTokenBitsIgnored := by
  intro s w₁ w₂ h₁ h₂
  refine ⟨congrArg Except.ok (decodeToken_of_isEnd h₁), ?_⟩
  rw [step_token, step_token, decodeToken_of_isEnd h₁, decodeToken_of_isEnd h₂]

/-! ## The handshake of a sound encoder (R247) -/

/-- What a handshake does to a sound encoder, state by state. -/
theorem Encoder.ack_cases {c : Cfg} {e : Encoder} (h : e.check c = none) :
    (e.e_state = .idle ∧ e.ack = e.idle) ∨
    (e.e_state = .syncH ∧ e.ack = { e.idle with e_state := .syncL }) ∨
    (e.e_state = .syncL ∧ e.ack = { e.idle with e_state := .bitH }) ∨
    (e.e_state = .bitH ∧ e.ack = { e.idle with e_state := .bitL }) ∨
    (e.e_state = .bitL ∧ e.e_bit.toNat < 39 ∧ e.ack = { e.idle with e_bit := e.e_bit + 1, e_state := .bitH }) ∨
    (e.e_state = .bitL ∧ e.e_bit = 39 ∧ 1 < e.e_rep ∧ e.ack = { e.idle with e_state := .gap }) ∨
    (e.e_state = .bitL ∧ e.e_bit = 39 ∧ e.e_rep = 1 ∧ e.ack = ⟨.idle, e.e_code, 0, 0, true, .ok⟩) ∨
    (e.e_state = .gap ∧ e.ack = { e.idle with e_rep := e.e_rep - 1, e_bit := 0, e_state := .syncH }) := by
  obtain ⟨⟨h6, h7⟩, hbit, -, -, -, -, hbusy, -⟩ := Encoder.check_eq_none.1 h
  cases hst : e.e_state with
  | code6 => exact absurd hst h6
  | code7 => exact absurd hst h7
  | bitL =>
    have hrep : e.e_rep ≠ 0 := (hbusy (by simp [hst])).1
    by_cases hlt : e.e_bit.toNat < 39
    · have hack : e.ack = { e.idle with e_bit := e.e_bit + 1, e_state := .bitH } := by
        simp only [Encoder.ack, hst]
        exact if_pos hlt
      simp [hlt, hack]
    · have h39 : e.e_bit = 39 := BitVec.eq_of_toNat_eq (le_antisymm hbit (not_lt.1 hlt))
      by_cases hmore : 1 < e.e_rep
      · simp [Encoder.ack, hst, h39, hmore]
      · have h1 : e.e_rep = 1 := by omega
        simp [Encoder.ack, Encoder.finish, hst, h39, h1]
  | idle | syncH | syncL | bitH | gap => simp [Encoder.ack, hst]

/-- A handshake keeps the encoder's registers at reached values. -/
theorem Encoder.ack_check {c : Cfg} {e : Encoder} (h : e.check c = none) : e.ack.check c = none := by
  obtain ⟨hcodes, hbit, hfit, hidle, hsync, hgap, hbusy, hcode, -⟩ := Encoder.check_eq_none.1 h
  rcases Encoder.ack_cases h with ⟨-, hack⟩ | ⟨hst, hack⟩ | ⟨hst, hack⟩ | ⟨hst, hack⟩ | ⟨hst, hlt, hack⟩ |
      ⟨hst, h39, hrep, hack⟩ | ⟨hst, -, hrep, hack⟩ | ⟨hst, hack⟩ <;> rw [hack, Encoder.check_eq_none]
  case inl => exact ⟨hcodes, hbit, hfit, hidle, hsync, hgap, hbusy, hcode, nofun⟩
  all_goals have hrun := hbusy (by simp [hst])
  · exact ⟨⟨nofun, nofun⟩, hbit, hfit, nofun, fun _ => hsync (.inl hst), nofun, fun _ => hrun, hcode, nofun⟩
  · exact ⟨⟨nofun, nofun⟩, hbit, hfit, nofun, nofun, nofun, fun _ => hrun, hcode, nofun⟩
  · exact ⟨⟨nofun, nofun⟩, hbit, hfit, nofun, nofun, nofun, fun _ => hrun, hcode, nofun⟩
  · have hnext : (e.e_bit + 1).toNat ≤ 39 := by bv_omega
    exact ⟨⟨nofun, nofun⟩, hnext, hfit, nofun, nofun, nofun, fun _ => hrun, hcode, nofun⟩
  · exact ⟨⟨nofun, nofun⟩, hbit, hfit, nofun, nofun, fun _ => ⟨h39, hrep⟩, fun _ => hrun, hcode, nofun⟩
  · have hended : c.fitsRep 1 = true := hrep ▸ hfit
    refine ⟨⟨nofun, nofun⟩, Nat.zero_le _, Cfg.fitsRep_iff.2 (Nat.two_pow_pos _), fun _ => ⟨rfl, rfl, ?_⟩, nofun, nofun,
      nofun, hcode, fun _ => ⟨rfl, nofun⟩⟩
    rw [if_neg hrun.2]
    exact ⟨nofun, hended⟩
  · have hmore := (hgap hst).2
    have hless : c.fitsRep (e.e_rep - 1) = true := Cfg.fitsRep_iff.2 ((Nat.sub_le ..).trans_lt (Cfg.fitsRep_iff.1 hfit))
    exact ⟨⟨nofun, nofun⟩, Nat.zero_le _, hless, nofun, fun _ => rfl, nofun,
      fun _ => ⟨Nat.sub_ne_zero_of_lt hmore, hrun.2⟩, hcode, nofun⟩

/-! ## The elements an encoding has left (R256) -/

/-- The elements still to take: those of the repetition being sent, and 83 for each one after it, its gap among them. -/
def Encoder.elementsLeft (e : Encoder) : Nat :=
  match e.e_state with
  | .idle | .code6 | .code7 => 0
  | .syncH => 83 * (e.e_rep - 1) + 82
  | .syncL => 83 * (e.e_rep - 1) + 81
  | .bitH => 83 * (e.e_rep - 1) + (80 - 2 * e.e_bit.toNat)
  | .bitL => 83 * (e.e_rep - 1) + (79 - 2 * e.e_bit.toNat)
  | .gap => 83 * (e.e_rep - 1)

/-- Each handshake takes one element (R247). -/
theorem Encoder.elementsLeft_ack {c : Cfg} {e : Encoder} (h : e.check c = none) :
    e.ack.elementsLeft = e.elementsLeft - 1 := by
  obtain ⟨-, hbit, -, -, hsync, hgap, -⟩ := Encoder.check_eq_none.1 h
  rcases Encoder.ack_cases h with ⟨hst, hack⟩ | ⟨hst, hack⟩ | ⟨hst, hack⟩ | ⟨hst, hack⟩ | ⟨hst, hlt, hack⟩ |
      ⟨hst, h39, hrep, hack⟩ | ⟨hst, h39, hrep, hack⟩ | ⟨hst, hack⟩ <;>
    simp only [hack, Encoder.elementsLeft, hst, Encoder.idle_e_rep, Encoder.idle_e_bit]
  case inr.inr.inl => simp [hsync (.inr hst)]
  · simp [hst]
  · omega
  · omega
  · have hnext : (e.e_bit + 1).toNat = e.e_bit.toNat + 1 := by bv_omega
    omega
  · simp [h39]
  · simp [h39, hrep]
  · have hmore := (hgap hst).2
    omega

/-- A sound encoder has elements left exactly while it runs. -/
theorem Encoder.elementsLeft_pos_iff {c : Cfg} {e : Encoder} (h : e.check c = none) :
    0 < e.elementsLeft ↔ e.e_state ≠ .idle := by
  obtain ⟨⟨h6, h7⟩, hbit, -, -, -, hgap, -⟩ := Encoder.check_eq_none.1 h
  cases hst : e.e_state with
  | idle => simp [Encoder.elementsLeft, hst]
  | code6 => exact absurd hst h6
  | code7 => exact absurd hst h7
  | gap =>
    have hmore := (hgap hst).2
    simp only [Encoder.elementsLeft, hst]
    exact iff_of_true (by omega) nofun
  | syncH | syncL | bitH | bitL =>
    simp only [Encoder.elementsLeft, hst]
    exact iff_of_true (by omega) nofun

/-- The only element left is the low half of the last bit pair. -/
theorem Encoder.elementsLeft_eq_one_iff {c : Cfg} {e : Encoder} (h : e.check c = none) :
    e.elementsLeft = 1 ↔ e.e_state = .bitL ∧ e.e_bit = 39 ∧ e.e_rep = 1 := by
  obtain ⟨-, hbit, -, -, -, hgap, hbusy, -⟩ := Encoder.check_eq_none.1 h
  cases hst : e.e_state with
  | bitL =>
    have hrep := (hbusy (by simp [hst])).1
    have h39 : e.e_bit = 39 ↔ e.e_bit.toNat = 39 := by
      rw [← BitVec.toNat_inj]
      rfl
    simp only [Encoder.elementsLeft, hst, h39, true_and]
    omega
  | idle | syncH | syncL | bitH | gap | code6 | code7 =>
    simp only [Encoder.elementsLeft, hst]
    exact iff_of_false (by omega) nofun

/-- A running encoder offers an element, with `last = 1` exactly on the only one left (R251). -/
theorem Encoder.offered_last {c : Cfg} {e : Encoder} (h : e.check c = none) (hrun : e.e_state ≠ .idle) :
    ∃ x, e.offered c = some x ∧ (x.last = true ↔ e.elementsLeft = 1) := by
  obtain ⟨⟨h6, h7⟩, hbit, -⟩ := Encoder.check_eq_none.1 h
  have hoffered : e.offered c = e.element c := by simp [Encoder.offered, Encoder.outValid, hrun]
  rw [hoffered, Encoder.element, if_neg (not_lt.2 hbit), Encoder.elementsLeft_eq_one_iff h]
  cases hst : e.e_state with
  | idle => exact absurd hst hrun
  | code6 => exact absurd hst h6
  | code7 => exact absurd hst h7
  | syncH | syncL | bitH | bitL | gap => simp

/-- The handshake that takes the last element ends the encoding (R247). -/
theorem Encoder.ack_of_elementsLeft_eq_one {c : Cfg} {e : Encoder} (h : e.check c = none) (hlast : e.elementsLeft = 1) :
    e.ack = ⟨.idle, e.e_code, 0, 0, true, .ok⟩ := by
  obtain ⟨hst, hbit, hrep⟩ := (Encoder.elementsLeft_eq_one_iff h).1 hlast
  simp [Encoder.ack, Encoder.finish, hst, hbit, hrep]

/-- A handshake keeps the Code40 being sent (R35). -/
theorem Encoder.ack_e_code {c : Cfg} {e : Encoder} (h : e.check c = none) : e.ack.e_code = e.e_code := by
  rcases Encoder.ack_cases h with ⟨-, hack⟩ | ⟨-, hack⟩ | ⟨-, hack⟩ | ⟨-, hack⟩ | ⟨-, -, hack⟩ | ⟨-, -, -, hack⟩ |
      ⟨-, -, -, hack⟩ | ⟨-, hack⟩ <;> rw [hack] <;> rfl

/-! ## Several handshakes in a row -/

/-- The encoder after `j` handshakes. -/
theorem Encoder.iterate_ack {c : Cfg} {e : Encoder} (h : e.check c = none) (j : Nat) :
    (Encoder.ack^[j] e).check c = none ∧ (Encoder.ack^[j] e).elementsLeft = e.elementsLeft - j ∧
      (Encoder.ack^[j] e).e_code = e.e_code := by
  induction j with
  | zero => exact ⟨h, rfl, rfl⟩
  | succ j ih =>
    obtain ⟨hcheck, hleft, hcode⟩ := ih
    rw [Function.iterate_succ_apply']
    refine ⟨Encoder.ack_check hcheck, ?_, (Encoder.ack_e_code hcheck).trans hcode⟩
    rw [Encoder.elementsLeft_ack hcheck, hleft, Nat.sub_sub]

/-- A cycle without a token keeps the decoder's registers at reached values (R172). -/
theorem Decoder.idle_check {c : Cfg} {r : Decoder} (h : r.check c = none) : r.idle.check c = none := by
  obtain ⟨herr, hcnt, heidx, hkind, hburst, hframe, hcmd, hidx, hidx39, hlvl, hdrain, -, hpossible⟩ :=
    Decoder.check_eq_none.1 h
  exact Decoder.check_eq_none.2
    ⟨herr, hcnt, heidx, hkind, hburst, hframe, hcmd, hidx, hidx39, hlvl, hdrain, nofun, hpossible⟩

/-- A sound state takes the line `ACK`: the encoder a handshake, the decoder nothing. -/
theorem step_ackLine {c : Cfg} {s : State} {rest : List Stimulus} (hs : s.pending = Script.ack c :: rest)
    (hsound : s.Sound) :
    step s = .next { s with dec := s.dec.idle, enc := s.enc.ack, pending := rest } := by
  rw [step_cycle hs rfl hsound.1 hsound.2, Encoder.turn_ack rfl rfl]
  rfl

/-- A sound state runs any number of lines `ACK`. -/
theorem run_ackLines {c : Cfg} {s : State} {rest : List Stimulus} {j : Nat}
    (hs : s.pending = List.replicate j (Script.ack c) ++ rest) (hsound : s.Sound) :
    ∃ t, Sys2Proof.core.run j s = .next t ∧ t.cfg = s.cfg ∧ t.pending = rest ∧ t.enc = Encoder.ack^[j] s.enc := by
  induction j generalizing s with
  | zero => exact ⟨s, rfl, rfl, hs, rfl⟩
  | succ j ih =>
    rw [Laws.run_succ j (step_ackLine hs hsound)]
    exact ih rfl ⟨Decoder.idle_check hsound.1, Encoder.ack_check hsound.2⟩

/-! ## `ACK*` (R100) -/

theorem Encoder.done_of_running {c : Cfg} {e : Encoder} (h : e.check c = none) (hrun : e.e_state ≠ .idle) :
    e.enc_done = false := by
  obtain ⟨-, -, -, -, -, -, -, -, hdone⟩ := Encoder.check_eq_none.1 h
  exact eq_false_of_ne_true fun hd => hrun (hdone hd).1

/-- While an encoding runs, `ACK*` lasts as many cycles as it has elements left. -/
theorem Script.ackStarLength_of_running {c : Cfg} {bound : Nat} {e : Encoder} (h : e.check c = none)
    (hrun : e.e_state ≠ .idle) (hbound : e.elementsLeft ≤ bound) :
    Script.ackStarLength c bound e = some e.elementsLeft := by
  induction bound generalizing e with
  | zero => exact absurd ((Encoder.elementsLeft_pos_iff h).2 hrun) (not_lt.2 hbound)
  | succ bound ih =>
    obtain ⟨x, hx, hlast⟩ := Encoder.offered_last h hrun
    rw [Script.ackStarLength, if_neg (by simp [Encoder.done_of_running h hrun])]
    by_cases hone : e.elementsLeft = 1
    · rw [if_pos (by simp [hx, hlast.2 hone]), hone]
    · have hpos := (Encoder.elementsLeft_pos_iff h).2 hrun
      have hleft := Encoder.elementsLeft_ack h
      have hcheck := Encoder.ack_check h
      have hrun' := (Encoder.elementsLeft_pos_iff hcheck).1 (by omega)
      rw [if_neg (by simp [hx, hlast, hone]), ih hcheck hrun' (by omega), hleft, Option.map_some,
        Nat.sub_add_cancel hpos]

/-- Where no encoding runs and none has just ended, `ACK*` finds no last cycle. -/
theorem Script.ackStarLength_of_idle {c : Cfg} {e : Encoder} (hidle : e.e_state = .idle) (hdone : e.enc_done = false)
    (bound : Nat) : Script.ackStarLength c bound e = none := by
  have hack : e.ack = e := by
    rw [Encoder.ack_of_idle hidle, Encoder.idle, ← hdone]
  have hoffered : e.offered c = none := by simp [Encoder.offered, Encoder.outValid, hidle]
  induction bound with
  | zero => rfl
  | succ bound ih => simp [Script.ackStarLength, hdone, hoffered, hack, ih]

/-- The bound that `ACK*` searches under is high enough. -/
theorem Encoder.elementsLeft_lt {c : Cfg} {e : Encoder} (h : e.check c = none) : e.elementsLeft < 83 * e.e_rep + 1 := by
  obtain ⟨-, -, -, -, -, -, hbusy, -⟩ := Encoder.check_eq_none.1 h
  by_cases hidle : e.e_state = .idle
  · simp [Encoder.elementsLeft, hidle]
  · have hrep := (hbusy hidle).1
    unfold Encoder.elementsLeft
    split <;> omega

theorem Script.ackStar_of_running {c : Cfg} {e : Encoder} (h : e.check c = none) (hrun : e.e_state ≠ .idle) :
    Script.ackStar c e = some (List.replicate e.elementsLeft (Script.ack c)) := by
  rw [Script.ackStar, Script.ackStarLength_of_running h hrun (Encoder.elementsLeft_lt h).le, Option.map_some]

/-- The first `j` of `n` lines `ACK` from a sound state, each of them a handshake. -/
theorem run_first_ackLines {s : State} (hsound : s.Sound) {j n : Nat} (hj : j ≤ n) (rest : List Stimulus) :
    ∃ t, Sys2Proof.core.run j { s with pending := List.replicate n (Script.ack s.cfg) ++ rest } = .next t ∧
      t.cfg = s.cfg ∧ t.pending = List.replicate (n - j) (Script.ack s.cfg) ++ rest ∧
      t.enc = Encoder.ack^[j] s.enc := by
  have hsplit : List.replicate n (Script.ack s.cfg) ++ rest =
      List.replicate j (Script.ack s.cfg) ++ (List.replicate (n - j) (Script.ack s.cfg) ++ rest) := by
    rw [← List.append_assoc, List.replicate_append_replicate, Nat.add_sub_cancel' hj]
  exact run_ackLines (s := { s with pending := _ }) hsplit hsound

/-- Settles O53: `ACK*` lasts as many cycles as there are elements left, and each handshake takes one of them. -/
theorem ackStarTakesEveryElementLeft : Obligations.AckStarTakesEveryElementLeft := by
  intro s rest hsound
  have hcheck := hsound.2
  refine ⟨fun hdone => ?_, fun hidle hdone => ?_, fun hrun => ?_⟩
  · simp [Script.ackStar, Script.ackStarLength, hdone]
  · rw [Script.ackStar, Script.ackStarLength_of_idle hidle hdone, Option.map_none]
  obtain ⟨k, hk⟩ : ∃ k, s.enc.elementsLeft = k + 1 :=
    Nat.exists_eq_succ_of_ne_zero ((Encoder.elementsLeft_pos_iff hcheck).2 hrun).ne'
  refine ⟨k, hk ▸ Script.ackStar_of_running hcheck hrun, fun hfirst => ?_, fun j hj => ?_, ?_⟩
  · obtain ⟨-, -, -, -, -, -, hbusy, -⟩ := Encoder.check_eq_none.1 hcheck
    have hrep := (hbusy hrun).1
    simp only [Encoder.elementsLeft, hfirst] at hk
    omega
  · obtain ⟨u, hu, hcfg, -, henc⟩ := run_first_ackLines hsound (Nat.le_succ_of_le hj) rest
    obtain ⟨hcheck', hleft, -⟩ := Encoder.iterate_ack hcheck j
    have hrun' := (Encoder.elementsLeft_pos_iff hcheck').1 (by omega)
    obtain ⟨x, hx, hlast⟩ := Encoder.offered_last hcheck' hrun'
    refine ⟨u, x, hu, by rw [hcfg, henc, hx], Bool.eq_iff_iff.2 ?_⟩
    rw [hlast, hleft, decide_eq_true_iff]
    omega
  · obtain ⟨t, ht, -, hpending, henc⟩ := run_first_ackLines hsound (le_refl (k + 1)) rest
    obtain ⟨hcheck', hleft, hcode⟩ := Encoder.iterate_ack hcheck k
    refine ⟨t, ht, by simpa using hpending, ?_⟩
    rw [henc, Function.iterate_succ_apply', Encoder.ack_of_elementsLeft_eq_one hcheck' (by omega), hcode]

end Sys2Proof.Machine

/-! PROOFS. The family `41_pulse_classifier`: the classifier (R120, R121, R140, R141, R145) and the steps that evaluate
the internal functions. -/

namespace Sys2Proof.Machine

/-! ## The windows (R120, R121) -/

/-- The pair comparator over closed windows (R120, R121). -/
theorem acceptPair_iff {h l : Nat} {wh wl : Window} :
    acceptPair h l wh wl = true ↔ (wh.min ≤ h ∧ h ≤ wh.max) ∧ (wl.min ≤ l ∧ l ≤ wl.max) := by
  simp only [acceptPair, accept, Bool.and_eq_true, decide_eq_true_eq]

/-! ## The classifier (R140, R141) -/

theorem classifyBit_eq_bit0_iff {c : Cfg} {h l : Nat} :
    classifyBit c h l = .bit0 ↔ acceptPair h l c.B0H c.B0L = true := by
  unfold classifyBit
  split
  next h0 => exact iff_of_true rfl h0
  next h0 => exact iff_of_false (by split <;> nofun) h0

theorem classifyBit_eq_bit1_iff {c : Cfg} {h l : Nat} :
    classifyBit c h l = .bit1 ↔ ¬ acceptPair h l c.B0H c.B0L = true ∧ acceptPair h l c.B1H c.B1L = true := by
  unfold classifyBit
  split
  next h0 => exact iff_of_false nofun fun h1 => h1.1 h0
  next h0 =>
    split
    next h1 => exact iff_of_true rfl ⟨h0, h1⟩
    next h1 => exact iff_of_false nofun fun h01 => h1 h01.2

/-- Settles O34. -/
theorem classifierTestsBit0First : Obligations.ClassifierTestsBit0First := by
  intro c h l
  refine ⟨classifyBit_eq_bit0_iff.trans acceptPair_iff, classifyBit_eq_bit1_iff.trans ?_, acceptPair_iff⟩
  exact and_congr (not_congr acceptPair_iff) acceptPair_iff

/-! ## The internal functions as steps -/

/-- An evaluation in a sound state completes and writes the model's output field only. -/
theorem onFunction_of_sound {s : State} (hsound : s.Sound) (out : FnOut) :
    onFunction out s = .next { s with fn_out := out } := onFunction_eq_next.2 ⟨hsound, rfl⟩

theorem exec_classifyBit {s : State} (hsound : s.Sound) (h l : Nat) :
    exec (.classifyBit h l) s = .next { s with fn_out := .bitValue (classifyBit s.cfg h l) } :=
  onFunction_of_sound hsound _

theorem exec_classifySync {s : State} (hsound : s.Sound) (h l : Nat) :
    exec (.classifySync h l) s = .next { s with fn_out := .isSync (classifySync s.cfg h l) } :=
  onFunction_of_sound hsound _

theorem exec_cmdFromByte {s : State} (hsound : s.Sound) (b : CmdByte) :
    exec (.cmdFromByte b) s = .next { s with fn_out := .command (commandFromByte b) } :=
  onFunction_of_sound hsound _

theorem exec_byteFromCmd {s : State} (hsound : s.Sound) (cmd : Command) :
    exec (.byteFromCmd cmd) s = .next { s with fn_out := .ofByte (byteFromCommand cmd) } :=
  onFunction_of_sound hsound _

/-- Settles O35: each function is an evaluation in a sound state; an error of R221 is a value like a byte. -/
theorem internalFunctionsComplete : Obligations.InternalFunctionsComplete := by
  intro s h l b cmd hsound
  refine ⟨exec_classifyBit hsound h l, exec_classifySync hsound h l, exec_cmdFromByte hsound b,
    fun y hbyte => ?_, fun e herror => ?_⟩
  · rw [exec_byteFromCmd hsound, hbyte, FnOut.ofByte]
  · rw [exec_byteFromCmd hsound, herror, FnOut.ofByte]

/-! ## The default configuration (R145) -/

/-- R145's table for `classify_bit`. -/
theorem classifyBit_withGap (gap : BitVec Config.DUR_W) (h l : Nat) :
    classifyBit (Config.withGap gap) h l =
      if 240 ≤ h ∧ h ≤ 400 ∧ 570 ≤ l ∧ l ≤ 950 then .bit0
      else if 540 ≤ h ∧ h ≤ 900 ∧ 270 ≤ l ∧ l ≤ 450 then .bit1
      else .invalid := by
  have b0h : (Config.withGap gap).B0H = ⟨240, 400⟩ := rfl
  have b0l : (Config.withGap gap).B0L = ⟨570, 950⟩ := rfl
  have b1h : (Config.withGap gap).B1H = ⟨540, 900⟩ := rfl
  have b1l : (Config.withGap gap).B1L = ⟨270, 450⟩ := rfl
  simp only [classifyBit, acceptPair_iff, b0h, b0l, b1h, b1l, and_assoc]

/-- R145's region for `classify_sync`. -/
theorem classifySync_withGap (gap : BitVec Config.DUR_W) (h l : Nat) :
    classifySync (Config.withGap gap) h l = decide (3570 ≤ h ∧ h ≤ 5950 ∧ 1140 ≤ l ∧ l ≤ 1900) := by
  have syh : (Config.withGap gap).SYH = ⟨3570, 5950⟩ := rfl
  have syl : (Config.withGap gap).SYL = ⟨1140, 1900⟩ := rfl
  rw [Bool.eq_iff_iff, classifySync, acceptPair_iff, decide_eq_true_iff, syh, syl, and_assoc]

/-- Settles O36. -/
theorem classifierRegions : Obligations.ClassifierRegions := by
  intro s gap h l hsound hcfg
  constructor
  · rw [exec_classifyBit hsound, hcfg, classifyBit_withGap]
  · rw [exec_classifySync hsound, hcfg, classifySync_withGap]

end Sys2Proof.Machine

/-! PROOFS. The family `42_frame_decoder`: what a pulse does, and the registers along a burst, which follow
`decode` (R160, R174). -/

namespace Sys2Proof.Machine

/-! ## What judging a pulse does, index by index (R164, R166, R170) -/

theorem Decoder.oddIndex_eq_false_iff {r : Decoder} : oddIndex r.d_cnt = false ↔ r.d_cnt.toNat % 2 = 0 := by
  rw [oddIndex_eq, decide_eq_false_iff_not]
  omega

theorem Decoder.judge_of_even {r : Decoder} (heven : r.d_cnt.toNat % 2 = 0) (c : Cfg) (d : Nat) :
    r.judge c d = { r with d_hi := d } :=
  if_pos (Decoder.oddIndex_eq_false_iff.2 heven)

theorem Decoder.judge_of_one {r : Decoder} (hone : r.d_cnt = 1) (c : Cfg) (d : Nat) :
    r.judge c d = { r with d_err := if classifySync c r.d_hi d then r.d_err else .sync } := by
  have hodd : ¬ oddIndex r.d_cnt = false := by simp [hone, oddIndex]
  rw [Decoder.judge, if_neg hodd, if_pos hone]
  split <;> rfl

/-- R166: what the value of a bit pair does to the registers. -/
def Decoder.takeBit (r : Decoder) : BitValue → Decoder
  | .invalid => { r with d_err := .bit, d_eidx := bitIndexOf r.d_cnt }
  | .bit0 => { r with d_acc := shiftIn r.d_acc false }
  | .bit1 => { r with d_acc := shiftIn r.d_acc true }

/-- An odd index from 3 up is neither even nor that of the sync pair. -/
theorem Decoder.judge_of_odd {r : Decoder} (hodd : r.d_cnt.toNat % 2 = 1) (h3 : 3 ≤ r.d_cnt.toNat) (c : Cfg) (d : Nat) :
    r.judge c d = if r.d_err = .none then r.takeBit (classifyBit c r.d_hi d) else r := by
  have hindex : ¬ oddIndex r.d_cnt = false := fun h => by
    have := Decoder.oddIndex_eq_false_iff.1 h
    omega
  have hlater : ¬ r.d_cnt = 1 := fun h => by simp [h] at h3
  rw [Decoder.judge, if_neg hindex, if_neg hlater]
  rfl

/-- Once an error is latched, an odd index changes nothing (R163). -/
theorem Decoder.judge_of_error {r : Decoder} (hodd : r.d_cnt.toNat % 2 = 1) (h3 : 3 ≤ r.d_cnt.toNat)
    (herr : r.d_err ≠ .none) (c : Cfg) (d : Nat) : r.judge c d = r := by
  rw [Decoder.judge_of_odd hodd h3, if_neg herr]

theorem Decoder.lvlAfter_eq (lv : Level) (r : Decoder) :
    r.lvlAfter lv = (r.d_lvl || lv != if r.d_cnt.toNat % 2 = 0 then .high else .low) := by
  rw [Decoder.lvlAfter, expectedLevel_eq]

theorem Decoder.lvlAfter_of_even {r : Decoder} (heven : r.d_cnt.toNat % 2 = 0) (lv : Level) :
    r.lvlAfter lv = (r.d_lvl || lv != .high) := by
  rw [Decoder.lvlAfter_eq, if_pos heven]

theorem Decoder.lvlAfter_of_odd {r : Decoder} (hodd : r.d_cnt.toNat % 2 = 1) (lv : Level) :
    r.lvlAfter lv = (r.d_lvl || lv != .low) := by
  rw [Decoder.lvlAfter_eq, if_neg (by omega)]

@[simp] theorem Decoder.judge_d_phase (c : Cfg) (d : Nat) (r : Decoder) : (r.judge c d).d_phase = r.d_phase := by
  unfold Decoder.judge
  split
  · rfl
  · split
    · split <;> rfl
    · split
      · split <;> rfl
      · rfl

/-! ## A pulse as an advance through the burst -/

/-- The registers with one more pulse of a burst taken in: it is judged, counted, and its level checked (R170). Before
index 81 this is all that a pulse does; at 81 it is what the publication reads. -/
def Decoder.advance (c : Cfg) (lv : Level) (d : Nat) (r : Decoder) : Decoder :=
  { r.judge c d with d_cnt := r.d_cnt + 1, d_lvl := r.lvlAfter lv, res_valid := false }

/-- The pair registers are those that judging the pulse leaves. -/
theorem Decoder.advance_of_judge {c : Cfg} {d : Nat} {r r' : Decoder} (h : r.judge c d = r') (lv : Level) :
    (r.advance c lv d).d_err = r'.d_err ∧ (r.advance c lv d).d_eidx = r'.d_eidx ∧
      (r.advance c lv d).d_acc = r'.d_acc ∧ (r.advance c lv d).d_hi = r'.d_hi := by
  subst h
  exact ⟨rfl, rfl, rfl, rfl⟩

theorem Decoder.advance_d_lvl (c : Cfg) (lv : Level) (d : Nat) (r : Decoder) :
    (r.advance c lv d).d_lvl = r.lvlAfter lv := rfl

theorem Decoder.advance_d_cnt_toNat {r : Decoder} (hcnt : r.d_cnt.toNat ≤ 81) (c : Cfg) (lv : Level) (d : Nat) :
    (r.advance c lv d).d_cnt.toNat = r.d_cnt.toNat + 1 := by
  have hnext : (r.d_cnt + 1).toNat = r.d_cnt.toNat + 1 := by bv_omega
  exact hnext

theorem Decoder.pulse_of_collect {r : Decoder} (hcollect : r.d_phase = .collect) (hcnt : r.d_cnt ≠ 81) (c : Cfg)
    (lv : Level) (d : Nat) : r.pulse c lv d = r.advance c lv d := by
  simp only [Decoder.pulse, hcollect, if_neg hcnt, Decoder.advance]

theorem Decoder.pulse_of_drain {r : Decoder} (hdrain : r.d_phase = .drain) (c : Cfg) (lv : Level) (d : Nat) :
    r.pulse c lv d = r.idle := by
  simp only [Decoder.pulse, hdrain]

/-- R169 for the 82nd pulse: what the registers have come to is published, the burst cleared, and `DRAIN` entered. -/
def Decoder.complete (r : Decoder) : Decoder :=
  { (r.publish r.d_err.resKind r.d_eidx r.d_acc r.d_lvl).clearBurst with d_phase := .drain }

theorem Decoder.pulse_of_last {r : Decoder} (hcollect : r.d_phase = .collect) (hcnt : r.d_cnt = 81) (c : Cfg)
    (lv : Level) (d : Nat) : r.pulse c lv d = (r.advance c lv d).complete := by
  rw [Decoder.pulse_publishes hcollect hcnt, Decoder.complete, Decoder.advance]
  dsimp only
  cases (r.judge c d).d_err.resKind <;> rfl

/-! ## `decode` as far as its first pulses decide it (R160) -/

/-- The loop of R160 over the first `n` bit pairs. -/
def decodePairs (c : Cfg) (b : List Pulse) (n : Nat) : Except DecodeError Code40 :=
  (List.range n).foldlM (decodePair c b) 0

@[simp] theorem decodePairs_zero (c : Cfg) (b : List Pulse) : decodePairs c b 0 = .ok 0 := rfl

theorem decodePairs_succ (c : Cfg) (b : List Pulse) (n : Nat) :
    decodePairs c b (n + 1) = (decodePairs c b n).bind fun code => decodePair c b code n := by
  simp only [decodePairs, List.range_succ, List.foldlM_append, List.foldlM_cons, List.foldlM_nil, bind_pure]
  rfl

/-- What the first `k` pulses of a burst of at least 82 make of it. -/
def decodeSoFar (c : Cfg) (b : List Pulse) (k : Nat) : Except DecodeError Code40 :=
  if k < 2 then .ok 0
  else if classifySync c (durAt b 0) (durAt b 1) = false then .error .syncMismatch
  else decodePairs c b ((k - 2) / 2)

/-- The high half of a pair decides nothing. -/
theorem decodeSoFar_succ_of_even {k : Nat} (heven : k % 2 = 0) (c : Cfg) (b : List Pulse) :
    decodeSoFar c b (k + 1) = decodeSoFar c b k := by
  have hstart : (k + 1 < 2) = (k < 2) := propext (by omega)
  have hpairs : (k + 1 - 2) / 2 = (k - 2) / 2 := by omega
  simp only [decodeSoFar, hstart, hpairs]

theorem decodeSoFar_two (c : Cfg) (b : List Pulse) :
    decodeSoFar c b 2 = if classifySync c (durAt b 0) (durAt b 1) then .ok 0 else .error .syncMismatch := by
  cases hsync : classifySync c (durAt b 0) (durAt b 1) <;> simp [decodeSoFar, hsync]

/-- The low half of bit pair `i` decides that pair. -/
theorem decodeSoFar_succ_of_odd {k : Nat} (hodd : k % 2 = 1) (h3 : 3 ≤ k) (c : Cfg) (b : List Pulse) :
    decodeSoFar c b (k + 1) = (decodeSoFar c b k).bind fun code => decodePair c b code ((k - 3) / 2) := by
  have hpairs : (k - 2) / 2 = (k - 3) / 2 := by omega
  have hpairs' : (k + 1 - 2) / 2 = (k - 3) / 2 + 1 := by omega
  have hlate : ¬ k < 2 := by omega
  have hlate' : ¬ k + 1 < 2 := by omega
  simp only [decodeSoFar, if_neg hlate, if_neg hlate', hpairs, hpairs', decodePairs_succ]
  split <;> rfl

theorem decodeSoFar_full {b : List Pulse} (hlen : 82 ≤ b.length) (c : Cfg) : decodeSoFar c b 82 = decodeCode c b := by
  rw [decodeCode, if_neg (Nat.not_lt.2 hlen)]
  rfl

/-! ## Levels and durations of the pulses taken in -/

theorem durAt_eq_getElem {b : List Pulse} {j : Nat} (hj : j < b.length) : durAt b j = b[j].dur := by
  rw [durAt, List.getD_eq_getElem _ _ hj]

theorem levelViolation_take_succ {b : List Pulse} {k : Nat} (hk : k < b.length) (h82 : k < 82) :
    levelViolation (b.take (k + 1)) =
      (levelViolation (b.take k) || b[k].level != if k % 2 = 0 then .high else .low) := by
  have hlen : (b.take k).length = k := by rw [List.length_take, Nat.min_eq_left hk.le]
  have hshort : min 82 (k + 1) = k + 1 := by omega
  have hshort' : min 82 k = k := by omega
  simp only [levelViolation, List.take_take, hshort, hshort']
  rw [← List.take_concat_get' b k hk, List.zipIdx_append, List.any_append, hlen]
  simp

/-- Only 82 pulses count. -/
theorem levelViolation_take_82 (b : List Pulse) : levelViolation (b.take 82) = levelViolation b := by
  simp only [levelViolation, List.take_take, Nat.min_self]

theorem Decoder.feed_take_succ {b : List Pulse} {k : Nat} (hk : k < b.length) (c : Cfg) (r : Decoder) :
    r.feed c (b.take (k + 1)) = (r.feed c (b.take k)).pulse c b[k].level b[k].dur := by
  rw [← List.take_concat_get' b k hk, Decoder.feed, List.foldl_append]
  rfl

/-! ## The registers while a burst comes in -/

/-- The error registers and the accumulator hold what the burst has come to so far (R163, R164, R166). -/
def Decoder.Latches (out : Except DecodeError Code40) (r : Decoder) : Prop :=
  match out with
  | .ok code => r.d_err = .none ∧ r.d_acc = code
  | .error .tooShort => False
  | .error .syncMismatch => r.d_err = .sync
  | .error (.bitDecodeError i) => r.d_err = .bit ∧ r.d_eidx.toNat = i

/-- The registers after the first `k` pulses of the burst `b`. -/
structure Decoder.Tracks (c : Cfg) (b : List Pulse) (k : Nat) (r : Decoder) : Prop where
  phase : r.d_phase = .collect
  cnt : r.d_cnt.toNat = k
  hi : k % 2 = 1 → r.d_hi = durAt b (k - 1)
  lvl : r.d_lvl = levelViolation (b.take k)
  latches : r.Latches (decodeSoFar c b k)

/-- At the start of a burst the working registers are clear (R169). -/
theorem Decoder.Tracks.zero {c : Cfg} {r : Decoder} (hcheck : r.check c = none) (hcollect : r.d_phase = .collect)
    (hcnt : r.d_cnt = 0) (b : List Pulse) : r.Tracks c b 0 := by
  obtain ⟨-, -, -, -, ⟨-, hclear, -⟩, -⟩ := Decoder.check_eq_none.1 hcheck
  obtain ⟨-, hacc, herr, -, hlvl⟩ := hclear hcnt
  exact ⟨hcollect, by rw [hcnt]; rfl, nofun, hlvl, herr, hacc⟩

/-- Judging the pulse that completes a bit pair latches what `decode` makes of the pair. -/
theorem Decoder.Latches.judge_of_odd {c : Cfg} {b : List Pulse} {r : Decoder} {out : Except DecodeError Code40}
    (h : r.Latches out) (hodd : r.d_cnt.toNat % 2 = 1) (h3 : 3 ≤ r.d_cnt.toNat) (h81 : r.d_cnt.toNat ≤ 81)
    (hhi : r.d_hi = durAt b (r.d_cnt.toNat - 1)) :
    (r.judge c (durAt b r.d_cnt.toNat)).Latches
      (out.bind fun code => decodePair c b code ((r.d_cnt.toNat - 3) / 2)) := by
  have hhigh : 2 + 2 * ((r.d_cnt.toNat - 3) / 2) = r.d_cnt.toNat - 1 := by omega
  have hlow : 2 + 2 * ((r.d_cnt.toNat - 3) / 2) + 1 = r.d_cnt.toNat := by omega
  have hidx : (bitIndexOf r.d_cnt).toNat = (r.d_cnt.toNat - 3) / 2 := by
    rw [bitIndexOf_eq h3 h81, BitVec.toNat_ofNat, Nat.mod_eq_of_lt (by omega)]
  match out, h with
  | .ok code, ⟨herr, hacc⟩ =>
    rw [Decoder.judge_of_odd hodd h3, if_pos herr, hhi]
    show Decoder.Latches (decodePair c b code _) _
    rw [decodePair, hlow, hhigh]
    cases classifyBit c (durAt b (r.d_cnt.toNat - 1)) (durAt b r.d_cnt.toNat) with
    | invalid => exact ⟨rfl, hidx⟩
    | bit0 | bit1 => exact ⟨herr, congrArg (shiftIn · _) hacc⟩
  | .error .syncMismatch, herr =>
    rw [Decoder.judge_of_error hodd h3 (by rw [herr]; nofun)]
    exact herr
  | .error (.bitDecodeError i), ⟨herr, hi⟩ =>
    rw [Decoder.judge_of_error hodd h3 (by rw [herr]; nofun)]
    exact ⟨herr, hi⟩

/-- Judging the next pulse latches what `decode` makes of it: nothing at a high half, the sync pair at index 1, a bit
pair at a later low half. -/
theorem Decoder.Tracks.judge_latches {c : Cfg} {b : List Pulse} {k : Nat} {r : Decoder} (h : r.Tracks c b k)
    (h81 : k ≤ 81) : (r.judge c (durAt b k)).Latches (decodeSoFar c b (k + 1)) := by
  obtain ⟨-, hcnt, hhi, -, hlatches⟩ := h
  subst hcnt
  rcases Nat.mod_two_eq_zero_or_one r.d_cnt.toNat with heven | hodd
  · rw [Decoder.judge_of_even heven, decodeSoFar_succ_of_even heven]
    exact hlatches
  · by_cases hone : r.d_cnt = 1
    · have hcnt1 : r.d_cnt.toNat = 1 := congrArg BitVec.toNat hone
      rw [hcnt1] at hlatches hhi
      obtain ⟨herr, hacc⟩ : r.d_err = .none ∧ r.d_acc = 0 := hlatches
      rw [Decoder.judge_of_one hone, hcnt1, hhi rfl, decodeSoFar_two]
      cases classifySync c (durAt b 0) (durAt b 1) with
      | true => exact ⟨herr, hacc⟩
      | false => exact rfl
    · have hlater : r.d_cnt.toNat ≠ 1 := fun h1 => hone (BitVec.eq_of_toNat_eq h1)
      have h3 : 3 ≤ r.d_cnt.toNat := by omega
      rw [decodeSoFar_succ_of_odd hodd h3]
      exact hlatches.judge_of_odd hodd h3 h81 (hhi hodd)

/-- One more pulse: the key step of R174. -/
theorem Decoder.Tracks.advance {c : Cfg} {b : List Pulse} {k : Nat} {r : Decoder} (h : r.Tracks c b k)
    (hk : k < b.length) (h81 : k ≤ 81) : (r.advance c b[k].level b[k].dur).Tracks c b (k + 1) := by
  have hlvl : r.lvlAfter b[k].level = levelViolation (b.take (k + 1)) := by
    rw [Decoder.lvlAfter_eq, levelViolation_take_succ hk (by omega), h.lvl, h.cnt]
  rw [← durAt_eq_getElem hk]
  refine ⟨(Decoder.judge_d_phase ..).trans h.phase, ?_, fun hodd => ?_, hlvl, h.judge_latches h81⟩
  · rw [Decoder.advance_d_cnt_toNat (h.cnt ▸ h81), h.cnt]
  · have heven : r.d_cnt.toNat % 2 = 0 := by
      rw [h.cnt]
      omega
    obtain ⟨-, -, -, hhi⟩ := Decoder.advance_of_judge (Decoder.judge_of_even heven c (durAt b k)) b[k].level
    exact hhi

/-- Before the 82nd pulse the registers follow the burst. -/
theorem Decoder.Tracks.feed {c : Cfg} {b : List Pulse} {r : Decoder} (h : r.Tracks c b 0) {k : Nat} (h81 : k ≤ 81)
    (hk : k ≤ b.length) : (r.feed c (b.take k)).Tracks c b k := by
  induction k with
  | zero => exact h
  | succ k ih =>
    have htracks := ih (by omega) (by omega)
    have hcnt : (r.feed c (b.take k)).d_cnt ≠ 81 := fun heq => by
      have := Decoder.cnt_eq_81_iff.1 heq
      have := htracks.cnt
      omega
    rw [Decoder.feed_take_succ hk, Decoder.pulse_of_collect htracks.phase hcnt]
    exact htracks.advance hk (by omega)

/-! ## The report (R165, R174) -/

/-- A report is read from the result registers alone. -/
theorem Decoder.Reports.congr {out : Except DecodeError Code40} {lvl : Bool} {r r' : Decoder}
    (h : r.Reports out lvl) (hresult : r'.result = r.result) : r'.Reports out lvl := by
  simp only [Decoder.result, Result.mk.injEq] at hresult
  obtain ⟨hkind, hidx, hpilot, hroller, hcbyte, hcmd, hlvlerr⟩ := hresult
  simp only [Decoder.Reports, hkind, hidx, hpilot, hroller, hcbyte, hcmd, hlvlerr]
  exact h

/-- The 82nd pulse reports what the registers have latched. -/
theorem Decoder.Latches.complete_reports {out : Except DecodeError Code40} {r : Decoder} (h : r.Latches out) :
    r.complete.Reports out r.d_lvl := by
  match out, h with
  | .ok code, ⟨herr, hacc⟩ => simp [Decoder.complete, Decoder.Reports, DErr.resKind, herr, hacc]
  | .error .syncMismatch, herr =>
    have herr : r.d_err = .sync := herr
    simp [Decoder.complete, Decoder.Reports, DErr.resKind, herr]
  | .error (.bitDecodeError i), ⟨herr, hi⟩ => simp [Decoder.complete, Decoder.Reports, DErr.resKind, herr, hi]

/-- A burst of 82 pulses or more is reported by its 82nd. -/
theorem Decoder.Tracks.feed_full {c : Cfg} {b : List Pulse} {r : Decoder} (h : r.Tracks c b 0) (hlen : 82 ≤ b.length) :
    (r.feed c (b.take 82)).res_valid = true ∧ (r.feed c (b.take 82)).d_phase = .drain ∧
      (r.feed c (b.take 82)).Reports (decodeCode c b) (levelViolation b) := by
  have htracks := h.feed (le_refl 81) (by omega)
  have hfull := htracks.advance (by omega) (le_refl 81)
  rw [Decoder.feed_take_succ (by omega),
    Decoder.pulse_of_last htracks.phase (Decoder.cnt_eq_81_iff.2 htracks.cnt), ← decodeSoFar_full hlen,
    ← levelViolation_take_82, ← hfull.lvl]
  exact ⟨Decoder.publish_res_valid .., rfl, hfull.latches.complete_reports⟩

/-- END in `COLLECT` reports a burst that is too short. -/
theorem Decoder.endBurst_of_collect {r : Decoder} (hcollect : r.d_phase = .collect) :
    r.endBurst = { (r.publish .tooShort 0 0 r.d_lvl).clearBurst with d_phase := .collect } := by
  simp only [Decoder.endBurst, hcollect]

theorem Decoder.endBurst_of_drain {r : Decoder} (hdrain : r.d_phase = .drain) :
    r.endBurst = { r.idle.clearBurst with d_phase := .collect } := by
  simp only [Decoder.endBurst, hdrain]

/-- Either way the decoder stands before the next burst. -/
theorem Decoder.endBurst_starts (r : Decoder) : r.endBurst.d_phase = .collect ∧ r.endBurst.d_cnt = 0 := by
  unfold Decoder.endBurst
  split <;> exact ⟨rfl, rfl⟩

/-- A burst of fewer than 82 pulses is reported by its END. -/
theorem Decoder.Tracks.endBurst_feed_short {c : Cfg} {b : List Pulse} {r : Decoder} (h : r.Tracks c b 0)
    (hlen : b.length < 82) :
    (r.feed c b).endBurst.res_valid = true ∧
      (r.feed c b).endBurst.Reports (decodeCode c b) (levelViolation b) := by
  have htracks := h.feed (Nat.le_of_lt_succ hlen) le_rfl
  have hlvl := htracks.lvl
  rw [List.take_length] at htracks hlvl
  have hcode : decodeCode c b = .error .tooShort := if_pos hlen
  rw [Decoder.endBurst_of_collect htracks.phase, hcode]
  exact ⟨rfl, hlvl, rfl, rfl, rfl, rfl, rfl, rfl⟩

/-- Settles O30: the registers track the burst pulse by pulse, and publish what they have come to. -/
theorem decoderAgreesWithDecode : Obligations.DecoderAgreesWithDecode := by
  intro c r b hcheck hcollect hcnt
  have htracks := Decoder.Tracks.zero hcheck hcollect hcnt b
  refine ⟨htracks.feed_full, fun hlen => ?_⟩
  obtain ⟨hvalid, hreports⟩ := htracks.endBurst_feed_short hlen
  obtain ⟨hphase, hcnt'⟩ := (r.feed c b).endBurst_starts
  exact ⟨hvalid, hphase, hcnt', hreports⟩

end Sys2Proof.Machine

/-! PROOFS. The family `42_frame_decoder`, the single transactions (R163–R172) and the precedence of errors (R161). -/

namespace Sys2Proof.Machine

/-! ## The transactions of a sound decoder -/

theorem exec_decPulse {s : State} (hcheck : s.dec.check s.cfg = none) (lv : Level) (d : Nat) :
    exec (.decPulse lv d) s = .next { s with dec := s.dec.pulse s.cfg lv d } :=
  onDecoder_eq_next.2 ⟨hcheck, rfl⟩

theorem exec_decEnd {s : State} (hcheck : s.dec.check s.cfg = none) :
    exec .decEnd s = .next { s with dec := s.dec.endBurst } :=
  onDecoder_eq_next.2 ⟨hcheck, rfl⟩

/-- Before index 81 a PULSE in `COLLECT` takes one more pulse of the burst in. -/
theorem exec_decPulse_of_collect {s : State} (hcheck : s.dec.check s.cfg = none) (hcollect : s.dec.d_phase = .collect)
    (hcnt : s.dec.d_cnt.toNat ≠ 81) (lv : Level) (d : Nat) :
    exec (.decPulse lv d) s = .next { s with dec := s.dec.advance s.cfg lv d } := by
  rw [exec_decPulse hcheck, Decoder.pulse_of_collect hcollect (mt Decoder.cnt_eq_81_iff.1 hcnt)]

/-- At the index of the sync pair's low pulse no error is latched (R163). -/
theorem Decoder.err_of_one {c : Cfg} {r : Decoder} (hcheck : r.check c = none) (hone : r.d_cnt = 1) :
    r.d_err = .none := by
  obtain ⟨hcode3, -, -, -, ⟨-, -, -, -, hsync, hbit⟩, -⟩ := Decoder.check_eq_none.1 hcheck
  have hcnt : r.d_cnt.toNat = 1 := congrArg BitVec.toNat hone
  cases herr : r.d_err with
  | none => rfl
  | sync =>
    obtain ⟨-, -, h2, -⟩ := Decoder.syncFailed_iff.1 (hsync herr)
    omega
  | bit =>
    obtain ⟨h4, -⟩ := Decoder.bitFailed_iff.1 (hbit herr)
    omega
  | code3 => exact absurd herr hcode3

/-- An error latched before an odd index was latched by a completed pair. -/
theorem Decoder.three_le_of_error {c : Cfg} {r : Decoder} (hcheck : r.check c = none) (herr : r.d_err ≠ .none)
    (hodd : r.d_cnt.toNat % 2 = 1) : 3 ≤ r.d_cnt.toNat := by
  have hone : r.d_cnt.toNat ≠ 1 := fun h => herr (Decoder.err_of_one hcheck (BitVec.eq_of_toNat_eq h))
  omega

/-- Settles O17: at an even index judging latches the duration. -/
theorem evenPulseLatchesHighDuration : Obligations.EvenPulseLatchesHighDuration := by
  intro s lv d hcheck hcollect heven
  rw [exec_decPulse_of_collect hcheck hcollect (by omega), Decoder.advance, Decoder.judge_of_even heven,
    Decoder.lvlAfter_of_even heven]

/-- Settles O18: at index 1 judging checks the sync pair, and no error is latched before. -/
theorem secondPulseChecksSync : Obligations.SecondPulseChecksSync := by
  intro s lv d hcheck hcollect hone
  have hcnt : s.dec.d_cnt.toNat = 1 := congrArg BitVec.toNat hone
  have hnext : s.dec.d_cnt + 1 = 2 := by rw [hone]; rfl
  rw [exec_decPulse_of_collect hcheck hcollect (by omega), Decoder.advance, Decoder.judge_of_one hone,
    Decoder.lvlAfter_of_odd (by omega), Decoder.err_of_one hcheck hone, hnext]

/-- Settles O19: at a later odd index, without an error, judging takes the bit pair's value. -/
theorem oddPulseClassifiesBitPair : Obligations.OddPulseClassifiesBitPair := by
  intro s lv d hcheck hcollect herr hodd h3 h79
  rw [exec_decPulse_of_collect hcheck hcollect (by omega), Decoder.advance, Decoder.judge_of_odd hodd h3, if_pos herr,
    Decoder.lvlAfter_of_odd hodd]
  cases classifyBit s.cfg s.dec.d_hi d with
  | invalid => simp only [Decoder.takeBit, bitIndexOf_eq h3 (show s.dec.d_cnt.toNat ≤ 81 by omega)]
  | bit0 => simp only [Decoder.takeBit, shiftIn_eq, Bool.toNat_false, Nat.add_zero]
  | bit1 => simp only [Decoder.takeBit, shiftIn_eq, Bool.toNat_true]

/-- Settles O20: with an error latched judging does no more than latch the duration at an even index. -/
theorem firstErrorFreezesBurst : Obligations.FirstErrorFreezesBurst := by
  intro s lv d hcheck hcollect herr h81
  rw [exec_decPulse_of_collect hcheck hcollect (by omega), Decoder.advance, Decoder.lvlAfter_eq]
  rcases Nat.mod_two_eq_zero_or_one s.dec.d_cnt.toNat with heven | hodd
  · simp only [Decoder.judge_of_even heven, if_pos heven]
  · have hlow : ¬ s.dec.d_cnt.toNat % 2 = 0 := by omega
    simp only [Decoder.judge_of_error hodd (Decoder.three_le_of_error hcheck herr hodd) herr, if_neg hlow]

/-! ## The 82nd pulse (R165) -/

/-- R82's fields as arithmetic on the number a Code40 is truncated from. -/
theorem pilotOf_ofNat (n : Nat) : pilotOf (BitVec.ofNat 40 n) = BitVec.ofNat 28 (n / 2 ^ 12) := by
  apply BitVec.eq_of_toNat_eq
  rw [pilotOf_toNat, BitVec.toNat_ofNat, BitVec.toNat_ofNat]
  omega

theorem rollerOf_ofNat (n : Nat) : rollerOf (BitVec.ofNat 40 n) = BitVec.ofNat 4 (n / 2 ^ 8) := by
  apply BitVec.eq_of_toNat_eq
  rw [rollerOf_toNat, BitVec.toNat_ofNat, BitVec.toNat_ofNat]
  omega

theorem cbyteOf_ofNat (n : Nat) : cbyteOf (BitVec.ofNat 40 n) = BitVec.ofNat 8 n := by
  apply BitVec.eq_of_toNat_eq
  rw [cbyteOf_toNat, BitVec.toNat_ofNat, BitVec.toNat_ofNat]
  omega

/-- What a completed burst leaves in every register: a frame, split into its fields. -/
theorem Decoder.complete_of_ok {r : Decoder} (herr : r.d_err = .none) :
    r.complete = ⟨.drain, 0, 0, 0, .none, 0, false, true, .ok, 0, pilotOf r.d_acc, rollerOf r.d_acc, cbyteOf r.d_acc,
      commandFromByte (cbyteOf r.d_acc), r.d_lvl⟩ := by
  rw [Decoder.complete, herr]
  rfl

theorem Decoder.complete_of_sync {r : Decoder} (herr : r.d_err = .sync) :
    r.complete = ⟨.drain, 0, 0, 0, .none, 0, false, true, .syncMismatch, 0, 0, 0, 0, .unknown, r.d_lvl⟩ := by
  rw [Decoder.complete, herr]
  rfl

theorem Decoder.complete_of_bit {r : Decoder} (herr : r.d_err = .bit) :
    r.complete = ⟨.drain, 0, 0, 0, .none, 0, false, true, .bitError, r.d_eidx, 0, 0, 0, .unknown, r.d_lvl⟩ := by
  rw [Decoder.complete, herr]
  rfl

/-- Settles O21: the last pulse is judged, and what the registers then hold is published. -/
theorem lastPulsePublishes : Obligations.LastPulsePublishes := by
  intro s lv d hcheck hcollect hcnt
  have h81 := Decoder.cnt_eq_81_iff.1 hcnt
  have hodd : s.dec.d_cnt.toNat % 2 = 1 := by omega
  have h3 : 3 ≤ s.dec.d_cnt.toNat := by omega
  have hlast : bitIndexOf s.dec.d_cnt = 39 := by rw [hcnt]; decide
  rw [exec_decPulse hcheck, Decoder.pulse_of_last hcollect hcnt, ← Decoder.lvlAfter_of_odd hodd]
  refine ⟨fun herr => ?_, fun herr => ?_, fun herr => ?_⟩
  · have hjudge := Decoder.judge_of_error hodd h3 (herr ▸ nofun) s.cfg d
    obtain ⟨herr', -⟩ := Decoder.advance_of_judge hjudge lv
    rw [Decoder.complete_of_sync (herr'.trans herr), Decoder.advance_d_lvl]
  · have hjudge := Decoder.judge_of_error hodd h3 (herr ▸ nofun) s.cfg d
    obtain ⟨herr', heidx, -⟩ := Decoder.advance_of_judge hjudge lv
    rw [Decoder.complete_of_bit (herr'.trans herr), Decoder.advance_d_lvl, heidx]
  · have hjudge := Decoder.judge_of_odd hodd h3 s.cfg d
    rw [if_pos herr] at hjudge
    obtain ⟨herr', heidx, hacc, -⟩ := Decoder.advance_of_judge hjudge lv
    cases hpair : classifyBit s.cfg s.dec.d_hi d with rw [hpair] at herr' heidx hacc
    | invalid => rw [Decoder.complete_of_bit herr', Decoder.advance_d_lvl, heidx, Decoder.takeBit, hlast]
    | bit0 | bit1 =>
      rw [Decoder.complete_of_ok (herr'.trans herr), hacc.trans (shiftIn_eq ..), pilotOf_ofNat, rollerOf_ofNat,
        cbyteOf_ofNat]
      rfl

/-! ## `DRAIN` and END (R167, R171) -/

/-- A cycle with a PULSE token gives the decoder a pulse. -/
theorem Decoder.turn_of_decPulse {c : Cfg} {p : Ports} {lv : Level} {d : Nat} (hvalid : p.in_valid = true)
    (hword : decodeToken c p.in_word = .decPulse lv d) (r : Decoder) : r.turn c p = r.pulse c lv d := by
  unfold decodeToken at hword
  split at hword
  · cases hword
  next hpulse =>
    cases hword
    rw [Decoder.turn, if_pos hvalid, if_neg hpulse]

/-- A cycle with an END token ends the burst. -/
theorem Decoder.turn_of_decEnd {c : Cfg} {p : Ports} (hvalid : p.in_valid = true) (hend : isEnd c p.in_word = true)
    (r : Decoder) : r.turn c p = r.endBurst := by
  rw [Decoder.turn, if_pos hvalid, if_pos hend]

/-- A cycle without a token only drops the strobe (R172). -/
theorem Decoder.turn_of_no_token {c : Cfg} {p : Ports} (hvalid : p.in_valid = false) (r : Decoder) :
    r.turn c p = r.idle := by
  rw [Decoder.turn, if_neg (by simp [hvalid])]

/-- No cycle but one with an END token leaves `DRAIN` (R167). -/
theorem Decoder.end_of_turn_leaves_drain {c : Cfg} {p : Ports} {r : Decoder} (hdrain : r.d_phase = .drain)
    (hleft : (r.turn c p).d_phase ≠ .drain) : p.in_valid = true ∧ decodeToken c p.in_word = .decEnd := by
  cases hvalid : p.in_valid with
  | false => exact absurd (by rw [Decoder.turn_of_no_token hvalid]; exact hdrain) hleft
  | true =>
    refine ⟨rfl, (decodeToken_cases c p.in_word).resolve_right ?_⟩
    rintro ⟨lv, d, hpulse⟩
    rw [Decoder.turn_of_decPulse hvalid hpulse, Decoder.pulse_of_drain hdrain] at hleft
    exact hleft hdrain

/-- Settles O22. -/
theorem drainIgnoresPulses : Obligations.DrainIgnoresPulses := by
  refine ⟨fun s lv d hcheck hdrain => ?_, fun s t hdrain hstep hleft => ?_⟩
  · rw [exec_decPulse hcheck, Decoder.pulse_of_drain hdrain, Decoder.idle]
  · rcases step_cases hstep with ⟨p, hp, -, -, -, rfl⟩ | ⟨p, rest, hs, hrst, -⟩ | ⟨f, rest, -, -, -, rfl⟩
    · have hend := Decoder.end_of_turn_leaves_drain hdrain hleft
      obtain ⟨-, rfl⟩ | ⟨rest, hs⟩ := hp
      · cases hend.1
      · exact ⟨p, rest, hs, .inr hend⟩
    · exact ⟨p, rest, hs, .inl hrst⟩
    · exact absurd hdrain hleft

/-- Settles O23. -/
theorem endClosesBurst : Obligations.EndClosesBurst := by
  intro s hcheck
  rw [exec_decEnd hcheck]
  refine ⟨fun hcollect => ?_, fun hdrain => ?_⟩
  · rw [Decoder.endBurst_of_collect hcollect]
    rfl
  · rw [Decoder.endBurst_of_drain hdrain]
    rfl

/-! ## The level (R168) -/

/-- The registers without the two that report the level. -/
def Decoder.eraseLevel (r : Decoder) : Decoder := { r with d_lvl := false, res_lvlerr := false }

/-- The level is not looked at while a pulse is judged. -/
theorem Decoder.advance_eraseLevel (c : Cfg) (lv lv' : Level) (d : Nat) (r : Decoder) :
    (r.advance c lv d).eraseLevel = (r.advance c lv' d).eraseLevel := rfl

/-- A report's other fields do not depend on the level. -/
theorem Decoder.complete_eraseLevel {r r' : Decoder} (h : r.eraseLevel = r'.eraseLevel) :
    r.complete.eraseLevel = r'.complete.eraseLevel := by
  simp only [Decoder.eraseLevel, Decoder.mk.injEq] at h
  obtain ⟨-, -, -, hacc, herr, heidx, -⟩ := h
  simp only [Decoder.complete, hacc, herr, heidx]
  cases r'.d_err <;> rfl

/-- Settles O24: in either branch of a pulse the level reaches its own register only. -/
theorem levelIsOnlyReported : Obligations.LevelIsOnlyReported := by
  intro s lv lv' d hcheck hcollect
  have herase := Decoder.advance_eraseLevel s.cfg lv lv' d s.dec
  refine ⟨_, _, exec_decPulse hcheck lv d, exec_decPulse hcheck lv' d, ?_⟩
  rw [← Decoder.lvlAfter_eq]
  by_cases hcnt : s.dec.d_cnt = 81
  · simp only [Decoder.pulse_of_last hcollect hcnt, if_pos (Decoder.cnt_eq_81_iff.1 hcnt)]
    exact ⟨Decoder.complete_eraseLevel herase, Decoder.publish_res_lvlerr ..⟩
  · simp only [Decoder.pulse_of_collect hcollect hcnt, if_neg (mt Decoder.cnt_eq_81_iff.2 hcnt)]
    exact ⟨herase, rfl⟩

/-! ## The precedence of errors (R161) -/

/-- Bit pairs that are all valid make a code. -/
theorem exists_decodePairs_eq_ok {c : Cfg} {b : List Pulse} {n : Nat}
    (h : ∀ i < n, classifyBit c (durAt b (2 + 2 * i)) (durAt b (3 + 2 * i)) ≠ .invalid) :
    ∃ code, decodePairs c b n = .ok code := by
  induction n with
  | zero => exact ⟨0, rfl⟩
  | succ n ih =>
    obtain ⟨code, hcode⟩ := ih fun i hi => h i (Nat.lt_succ_of_lt hi)
    have hlow : 2 + 2 * n + 1 = 3 + 2 * n := by omega
    rw [decodePairs_succ, hcode, Except.bind, decodePair, hlow]
    cases hpair : classifyBit c (durAt b (2 + 2 * n)) (durAt b (3 + 2 * n)) with
    | invalid => exact absurd hpair (h n (Nat.lt_succ_self n))
    | bit0 | bit1 => exact ⟨_, rfl⟩

/-- The first invalid pair ends the loop, however many follow it. -/
theorem decodePairs_eq_error {c : Cfg} {b : List Pulse} {i n : Nat} (hi : i < n)
    (hpair : classifyBit c (durAt b (2 + 2 * i)) (durAt b (3 + 2 * i)) = .invalid)
    (hbefore : ∀ j < i, classifyBit c (durAt b (2 + 2 * j)) (durAt b (3 + 2 * j)) ≠ .invalid) :
    decodePairs c b n = .error (.bitDecodeError i) := by
  induction n with
  | zero => exact absurd hi (Nat.not_lt_zero i)
  | succ n ih =>
    rw [decodePairs_succ]
    rcases Nat.lt_succ_iff_lt_or_eq.1 hi with hlt | rfl
    · rw [ih hlt, Except.bind]
    · obtain ⟨code, hcode⟩ := exists_decodePairs_eq_ok hbefore
      have hlow : 2 + 2 * i + 1 = 3 + 2 * i := by omega
      rw [hcode, Except.bind, decodePair, hlow, hpair]

/-- A burst of full length with a sync pair is decoded pair by pair. -/
theorem decodeCode_eq_decodePairs {c : Cfg} {b : List Pulse} (hlen : 82 ≤ b.length)
    (hsync : classifySync c (durAt b 0) (durAt b 1) = true) : decodeCode c b = decodePairs c b 40 := by
  rw [decodeCode, if_neg (Nat.not_lt.2 hlen), if_neg (by simp [hsync]), decodePairs]

theorem decodeFrame_of_error {c : Cfg} {b : List Pulse} {e : DecodeError} (h : decodeCode c b = .error e) :
    decodeFrame c b = .error e := by
  rw [decodeFrame, h]

theorem decodeFrame_of_ok {c : Cfg} {b : List Pulse} {code : Code40} (h : decodeCode c b = .ok code) :
    decodeFrame c b = .ok ⟨pilotOf code, rollerOf code, commandFromByte (cbyteOf code)⟩ := by
  rw [decodeFrame, h]

/-- Settles O33. -/
theorem decodeErrorPrecedence : Obligations.DecodeErrorPrecedence := by
  intro c b
  refine ⟨fun hshort => ?_, fun hlen hsync => ?_, fun hlen hsync i hi hpair hbefore => ?_, fun hlen hsync hall => ?_⟩
  · exact decodeFrame_of_error (if_pos hshort)
  · exact decodeFrame_of_error (by rw [decodeCode, if_neg (Nat.not_lt.2 hlen), if_pos hsync])
  · exact decodeFrame_of_error ((decodeCode_eq_decodePairs hlen hsync).trans (decodePairs_eq_error hi hpair hbefore))
  · obtain ⟨code, hcode⟩ := exists_decodePairs_eq_ok hall
    exact ⟨_, decodeFrame_of_ok ((decodeCode_eq_decodePairs hlen hsync).trans hcode)⟩

end Sys2Proof.Machine

/-! PROOFS. The family `42_frame_decoder` at the ports: every cycle keeps the registers at reached values (R48), so that
runs of cycles go on (R172, R173). -/

namespace Sys2Proof.Machine

/-! ## A pulse keeps the decoder's registers at reached values (R48, R314) -/

/-- One more bit pair with the value `b` shifts `b` into an accumulator that holds `n` (R166). -/
theorem carries_shiftIn {c : Cfg} {n : Nat} {acc : Code40} {b : Bool} (h : carries c n acc = true) (hn : n < 40)
    (hpair : somePair c (isBitPair c (.ofBool b)) = true) : carries c (n + 1) (shiftIn acc b) = true := by
  obtain ⟨hlt, h0, h1⟩ := carries_iff.1 h
  have hpow : 2 ^ (n + 1) = 2 * 2 ^ n := Nat.pow_succ'
  have hfit : 2 ^ (n + 1) ≤ 2 ^ 40 := Nat.pow_le_pow_right (by decide) hn
  have hbit : b.toNat ≤ 1 := b.toNat_le
  have hval : (shiftIn acc b).toNat = 2 * acc.toNat + b.toNat := by
    rw [shiftIn_eq, BitVec.toNat_ofNat, Nat.mod_eq_of_lt (by omega)]
  rw [carries_iff, hval]
  cases b with
  | false => exact ⟨by omega, .inl hpair, h1.imp_right fun hzero => by rw [hzero]; rfl⟩
  | true => exact ⟨by omega, h0.imp_right fun hones => by rw [hones, Bool.toNat_true]; omega, .inl hpair⟩

/-- Where no bit pair can be valid, none has been. -/
theorem eq_zero_of_carries {c : Cfg} {n : Nat} {acc : Code40} (h : carries c n acc = true)
    (h0 : somePair c (isBitPair c .bit0) ≠ true) (h1 : somePair c (isBitPair c .bit1) ≠ true) : n = 0 := by
  obtain ⟨-, hones, hzero⟩ := carries_iff.1 h
  have hpow : 2 ^ n = 1 := by
    have := hones.resolve_left h0
    have := hzero.resolve_left h1
    have := Nat.two_pow_pos n
    omega
  exact (Nat.pow_eq_one.1 hpow).resolve_left (by decide)

theorem shiftIn_getLsbD_zero (acc : Code40) (b : Bool) : (shiftIn acc b).getLsbD 0 = b := by
  cases b <;> simp [shiftIn]

/-- A bit value other than `INVALID` is the value of some bit, which is what is shifted in. -/
theorem Decoder.takeBit_ofBool (r : Decoder) (b : Bool) :
    r.takeBit (.ofBool b) = { r with d_acc := shiftIn r.d_acc b } := by
  cases b <;> rfl

theorem BitValue.invalid_or_ofBool (v : BitValue) : v = .invalid ∨ ∃ b, v = .ofBool b := by
  cases v with
  | invalid => exact .inl rfl
  | bit0 => exact .inr ⟨false, rfl⟩
  | bit1 => exact .inr ⟨true, rfl⟩

theorem Decoder.cnt_eq_two_iff {r : Decoder} : r.d_cnt = 2 ↔ r.d_cnt.toNat = 2 := by
  rw [← BitVec.toNat_inj]
  rfl

/-- R163–R166 as one condition: the working registers of a burst with a pulse taken in, the 82nd perhaps. -/
structure Decoder.Collected (c : Cfg) (r : Decoder) : Prop where
  err : r.d_err ≠ .code3
  eidx : r.d_eidx.toNat ≤ 39
  hi : c.fitsDur r.d_hi = true
  clean : r.d_err = .none → r.cleanBurst c = true
  sync : r.d_err = .sync → r.syncFailed c = true
  bit : r.d_err = .bit → r.bitFailed c = true

theorem Decoder.collected_of_check {c : Cfg} {r : Decoder} (h : r.check c = none) : r.Collected c := by
  obtain ⟨herr, -, heidx, -, ⟨-, -, hhi, hclean, hsync, hbit⟩, -⟩ := Decoder.check_eq_none.1 h
  exact ⟨herr, heidx, hhi, hclean, hsync, hbit⟩

theorem Decoder.collected_of_clean {c : Cfg} {r : Decoder} (herr : r.d_err = .none) (hhi : c.fitsDur r.d_hi = true)
    (h : r.cleanBurst c = true) : r.Collected c := by
  obtain ⟨heidx, -⟩ := Decoder.cleanBurst_iff.1 h
  exact ⟨by simp [herr], by simp [heidx], hhi, fun _ => h, by simp [herr], by simp [herr]⟩

theorem Decoder.collected_of_syncFailed {c : Cfg} {r : Decoder} (herr : r.d_err = .sync)
    (hhi : c.fitsDur r.d_hi = true) (h : r.syncFailed c = true) : r.Collected c := by
  obtain ⟨heidx, -⟩ := Decoder.syncFailed_iff.1 h
  exact ⟨by simp [herr], by simp [heidx], hhi, by simp [herr], fun _ => h, by simp [herr]⟩

theorem Decoder.collected_of_bitFailed {c : Cfg} {r : Decoder} (herr : r.d_err = .bit) (hhi : c.fitsDur r.d_hi = true)
    (heidx : r.d_eidx.toNat ≤ 39) (h : r.bitFailed c = true) : r.Collected c :=
  ⟨by simp [herr], heidx, hhi, by simp [herr], by simp [herr], fun _ => h⟩

/-- A failed sync pair stays failed, whatever the next pulse is. -/
theorem Decoder.syncFailed_succ {c : Cfg} {r r' : Decoder} (h : r.syncFailed c = true) (hacc : r'.d_acc = r.d_acc)
    (heidx : r'.d_eidx = r.d_eidx) (hcnt : r'.d_cnt.toNat = r.d_cnt.toNat + 1) : r'.syncFailed c = true := by
  obtain ⟨hzero, hacc0, h2, hpair, -⟩ := Decoder.syncFailed_iff.1 h
  refine Decoder.syncFailed_iff.2 ⟨heidx.trans hzero, hacc.trans hacc0, by omega, hpair, fun htwo => ?_⟩
  have := Decoder.cnt_eq_two_iff.1 htwo
  omega

/-- A failed bit pair stays the first, whatever the next pulse is. -/
theorem Decoder.bitFailed_succ {c : Cfg} {r r' : Decoder} (h : r.bitFailed c = true) (hacc : r'.d_acc = r.d_acc)
    (heidx : r'.d_eidx = r.d_eidx) (hcnt : r'.d_cnt.toNat = r.d_cnt.toNat + 1) : r'.bitFailed c = true := by
  obtain ⟨h4, hcarries, hsync, hpair, -⟩ := Decoder.bitFailed_iff.1 h
  rw [Decoder.bitFailed_iff, heidx, hacc, hcnt]
  exact ⟨by omega, hcarries, hsync, hpair, fun hjust => by omega⟩

/-- A burst without an error stays one at the high half of its next pair. -/
theorem Decoder.cleanBurst_succ {c : Cfg} {r r' : Decoder} (h : r.cleanBurst c = true)
    (heven : r.d_cnt.toNat % 2 = 0) (hacc : r'.d_acc = r.d_acc) (heidx : r'.d_eidx = r.d_eidx)
    (hcnt : r'.d_cnt.toNat = r.d_cnt.toNat + 1) : r'.cleanBurst c = true := by
  obtain ⟨hzero, hcarries, hsync, -⟩ := Decoder.cleanBurst_iff.1 h
  have hpairs : (r.d_cnt.toNat + 1 - 2) / 2 = (r.d_cnt.toNat - 2) / 2 := by omega
  rw [Decoder.cleanBurst_iff, Decoder.cnt_eq_two_iff, heidx, hacc, hcnt, hpairs]
  exact ⟨hzero, hcarries, fun h2 => hsync (by omega), fun htwo => by omega, fun _ hodd => by omega⟩

/-- The high half of a pair (R170). -/
theorem Decoder.advance_collected_of_even {c : Cfg} {r : Decoder} {d : Nat} (h : r.Collected c)
    (h81 : r.d_cnt.toNat ≤ 81) (heven : r.d_cnt.toNat % 2 = 0) (hfit : c.fitsDur d = true) (lv : Level) :
    (r.advance c lv d).Collected c := by
  have hcnt := Decoder.advance_d_cnt_toNat h81 c lv d
  obtain ⟨herr, heidx, hacc, hhi⟩ := Decoder.advance_of_judge (Decoder.judge_of_even heven c d) lv
  exact ⟨herr ▸ h.err, heidx ▸ h.eidx, by rwa [hhi],
    fun hnone => Decoder.cleanBurst_succ (h.clean (herr ▸ hnone)) heven hacc heidx hcnt,
    fun hsync => Decoder.syncFailed_succ (h.sync (herr ▸ hsync)) hacc heidx hcnt,
    fun hbit => Decoder.bitFailed_succ (h.bit (herr ▸ hbit)) hacc heidx hcnt⟩

/-- The low half of the sync pair (R164). -/
theorem Decoder.advance_collected_of_one {c : Cfg} {r : Decoder} {d : Nat} (h : r.Collected c) (hone : r.d_cnt = 1)
    (hnone : r.d_err = .none) (hfit : c.fitsDur d = true) (lv : Level) : (r.advance c lv d).Collected c := by
  obtain ⟨hzero, hcarries, -⟩ := Decoder.cleanBurst_iff.1 (h.clean hnone)
  have hcnt1 : r.d_cnt.toNat = 1 := congrArg BitVec.toNat hone
  have hcnt : (r.advance c lv d).d_cnt.toNat = 2 := by rw [Decoder.advance_d_cnt_toNat (by omega), hcnt1]
  obtain ⟨herr, heidx, hacc, hhi⟩ := Decoder.advance_of_judge (Decoder.judge_of_one hone c d) lv
  rw [hcnt1] at hcarries
  cases hsync : classifySync c r.d_hi d with
  | true =>
    replace herr : (r.advance c lv d).d_err = .none := by rw [herr, hsync, if_pos rfl, hnone]
    refine Decoder.collected_of_clean herr (hhi ▸ h.hi) ?_
    rw [Decoder.cleanBurst_iff, hcnt, hacc, hhi]
    exact ⟨heidx.trans hzero, hcarries, fun _ => somePair_of_pair (seesWindows_sync c) h.hi hfit hsync,
      fun _ => (someLow_iff (seesWindows_sync c) _).2 ⟨d, hfit, hsync⟩, fun h2 => by omega⟩
  | false =>
    replace herr : (r.advance c lv d).d_err = .sync := by rw [herr, hsync, if_neg (by simp)]
    have hpair : isNoSyncPair c r.d_hi d = true := congrArg not hsync
    have hempty : r.d_acc = 0 := by
      obtain ⟨hlt, -⟩ := carries_iff.1 hcarries
      exact BitVec.eq_of_toNat_eq (Nat.lt_one_iff.1 hlt)
    refine Decoder.collected_of_syncFailed herr (hhi ▸ h.hi) ?_
    rw [Decoder.syncFailed_iff, hcnt, hacc, hhi]
    exact ⟨heidx.trans hzero, hempty, le_refl 2, somePair_of_pair (seesWindows_noSync c) h.hi hfit hpair,
      fun _ => (someLow_iff (seesWindows_noSync c) _).2 ⟨d, hfit, hpair⟩⟩

/-- An error is latched (R163). -/
theorem Decoder.advance_collected_of_error {c : Cfg} {r : Decoder} {d : Nat} (h : r.Collected c)
    (hodd : r.d_cnt.toNat % 2 = 1) (h3 : 3 ≤ r.d_cnt.toNat) (h81 : r.d_cnt.toNat ≤ 81) (hlatched : r.d_err ≠ .none)
    (lv : Level) : (r.advance c lv d).Collected c := by
  have hcnt := Decoder.advance_d_cnt_toNat h81 c lv d
  obtain ⟨herr, heidx, hacc, hhi⟩ := Decoder.advance_of_judge (Decoder.judge_of_error hodd h3 hlatched c d) lv
  exact ⟨herr ▸ h.err, heidx ▸ h.eidx, hhi ▸ h.hi, fun hnone => absurd (herr ▸ hnone) hlatched,
    fun hsync => Decoder.syncFailed_succ (h.sync (herr ▸ hsync)) hacc heidx hcnt,
    fun hbit => Decoder.bitFailed_succ (h.bit (herr ▸ hbit)) hacc heidx hcnt⟩

/-- The low half of a bit pair, no error latched (R166). -/
theorem Decoder.advance_collected_of_odd {c : Cfg} {r : Decoder} {d : Nat} (h : r.Collected c)
    (hodd : r.d_cnt.toNat % 2 = 1) (h3 : 3 ≤ r.d_cnt.toNat) (h81 : r.d_cnt.toNat ≤ 81) (hnone : r.d_err = .none)
    (hfit : c.fitsDur d = true) (lv : Level) : (r.advance c lv d).Collected c := by
  obtain ⟨hzero, hcarries, hsync, -⟩ := Decoder.cleanBurst_iff.1 (h.clean hnone)
  have hcnt := Decoder.advance_d_cnt_toNat h81 c lv d
  have hpairs : (r.d_cnt.toNat - 2) / 2 = (r.d_cnt.toNat - 3) / 2 := by omega
  have hjudge := Decoder.judge_of_odd hodd h3 c d
  have htest : isBitPair c (classifyBit c r.d_hi d) r.d_hi d = true := beq_self_eq_true _
  rw [if_pos hnone] at hjudge
  rw [hpairs] at hcarries
  rcases BitValue.invalid_or_ofBool (classifyBit c r.d_hi d) with hpair | ⟨b, hpair⟩ <;> rw [hpair] at hjudge htest
  · obtain ⟨herr, heidx, hacc, hhi⟩ := Decoder.advance_of_judge hjudge lv
    have hidx : (r.advance c lv d).d_eidx.toNat = (r.d_cnt.toNat - 3) / 2 := by
      rw [heidx, Decoder.takeBit, bitIndexOf_eq h3 h81, BitVec.toNat_ofNat, Nat.mod_eq_of_lt (by omega)]
    refine Decoder.collected_of_bitFailed herr (hhi ▸ h.hi) (by omega) ?_
    rw [Decoder.bitFailed_iff, hcnt, hidx, hacc, hhi]
    exact ⟨by omega, hcarries, hsync (by omega), somePair_of_pair (seesWindows_bit c _) h.hi hfit htest,
      fun _ => (someLow_iff (seesWindows_bit c _) _).2 ⟨d, hfit, htest⟩⟩
  · rw [Decoder.takeBit_ofBool] at hjudge
    obtain ⟨herr, heidx, hacc, hhi⟩ := Decoder.advance_of_judge hjudge lv
    have hpairs' : (r.d_cnt.toNat + 1 - 2) / 2 = (r.d_cnt.toNat - 3) / 2 + 1 := by omega
    refine Decoder.collected_of_clean (herr.trans hnone) (hhi ▸ h.hi) ?_
    rw [Decoder.cleanBurst_iff, Decoder.cnt_eq_two_iff, hcnt, hacc, hhi, hpairs', shiftIn_getLsbD_zero]
    have hsome := somePair_of_pair (seesWindows_bit c _) h.hi hfit htest
    exact ⟨heidx.trans hzero, carries_shiftIn hcarries (by omega) hsome, fun _ => hsync (by omega),
      fun htwo => by omega, fun _ _ => (someLow_iff (seesWindows_bit c _) _).2 ⟨d, hfit, htest⟩⟩

/-- Every pulse that the port can carry. -/
theorem Decoder.advance_collected {c : Cfg} {r : Decoder} {d : Nat} (hcheck : r.check c = none)
    (hfit : c.fitsDur d = true) (lv : Level) : (r.advance c lv d).Collected c := by
  obtain ⟨-, h81, -⟩ := Decoder.check_eq_none.1 hcheck
  have h := Decoder.collected_of_check hcheck
  rcases Nat.mod_two_eq_zero_or_one r.d_cnt.toNat with heven | hodd
  · exact Decoder.advance_collected_of_even h h81 heven hfit lv
  · by_cases hnone : r.d_err = .none
    · by_cases hone : r.d_cnt = 1
      · exact Decoder.advance_collected_of_one h hone hnone hfit lv
      · have hone' : r.d_cnt.toNat ≠ 1 := fun h1 => hone (BitVec.eq_of_toNat_eq h1)
        exact Decoder.advance_collected_of_odd h hodd (by omega) h81 hnone hfit lv
    · exact Decoder.advance_collected_of_error h hodd (Decoder.three_le_of_error hcheck hnone hodd) h81 hnone lv

/-- Before the 82nd pulse the result registers stay. -/
theorem Decoder.resultSound_of_result {c : Cfg} {r r' : Decoder} (h : r.ResultSound c) (hresult : r'.result = r.result)
    (hcollect : r'.d_phase = .collect) (hvalid : r'.res_valid = false) : r'.ResultSound c := by
  simp only [Decoder.result, Result.mk.injEq] at hresult
  obtain ⟨hkind, hidx, hpilot, hroller, hcbyte, hcmd, hlvlerr⟩ := hresult
  obtain ⟨hframe, hmapped, hnoidx, hidx39, hnone, -, -, hpossible⟩ := h
  have hpossible' : r'.resultPossible c = r.resultPossible c := by
    simp only [Decoder.resultPossible, hkind, hidx, hpilot, hroller, hcbyte]
  rw [Decoder.ResultSound, hpossible', hkind, hidx, hpilot, hroller, hcbyte, hcmd, hlvlerr, hcollect, hvalid]
  exact ⟨hframe, hmapped, hnoidx, hidx39, hnone, nofun, nofun, hpossible⟩

/-- Cleared working registers are those of an empty burst, and those of `DRAIN` (R27, R169). -/
theorem Decoder.clearBurst_burstSound (c : Cfg) (r : Decoder) (p : Phase) :
    ({ r.clearBurst with d_phase := p } : Decoder).BurstSound c := by
  have hclean : ({ r.clearBurst with d_phase := p } : Decoder).cleanBurst c = true :=
    Decoder.cleanBurst_iff.2 ⟨rfl, by simp [carries_zero], nofun, nofun, nofun⟩
  exact ⟨fun _ => rfl, fun _ => ⟨rfl, rfl, rfl, rfl, rfl⟩, Cfg.fitsDur_iff.2 (Nat.two_pow_pos _), fun _ => hclean,
    nofun, nofun⟩

/-- A burst of 82 pulses has the result it reports. -/
theorem Decoder.complete_check {c : Cfg} {r : Decoder} (h : r.Collected c) (hcnt : r.d_cnt.toNat = 82) :
    r.complete.check c = none := by
  have hburst : r.complete.BurstSound c := Decoder.clearBurst_burstSound c _ _
  have hunknown : Command.unknown = commandFromByte 0 := by decide
  cases herr : r.d_err with
  | none =>
    obtain ⟨-, hcarries, hsync, -⟩ := Decoder.cleanBurst_iff.1 (h.clean herr)
    rw [hcnt] at hcarries
    rw [Decoder.complete_of_ok herr] at hburst ⊢
    refine Decoder.check_eq_none.2 ⟨nofun, Nat.zero_le _, Nat.zero_le _, ⟨nofun, nofun, nofun⟩, hburst,
      fun hk => absurd rfl hk, rfl, fun _ => rfl, Nat.zero_le _, nofun, fun _ => .inl rfl, fun _ => .inl rfl, ?_⟩
    exact Bool.and_eq_true_iff.2 ⟨hsync (by omega), (join40_fields r.d_acc).symm ▸ hcarries⟩
  | sync =>
    obtain ⟨-, -, -, hpair, -⟩ := Decoder.syncFailed_iff.1 (h.sync herr)
    rw [Decoder.complete_of_sync herr] at hburst ⊢
    exact Decoder.check_eq_none.2 ⟨nofun, Nat.zero_le _, Nat.zero_le _, ⟨nofun, nofun, nofun⟩, hburst,
      fun _ => ⟨rfl, rfl, rfl⟩, hunknown, fun _ => rfl, Nat.zero_le _, nofun, fun _ => .inr (.inl rfl),
      fun _ => .inl rfl, hpair⟩
  | bit =>
    obtain ⟨-, hcarries, hsync, hpair, -⟩ := Decoder.bitFailed_iff.1 (h.bit herr)
    rw [Decoder.complete_of_bit herr] at hburst ⊢
    refine Decoder.check_eq_none.2 ⟨nofun, Nat.zero_le _, Nat.zero_le _, ⟨nofun, nofun, nofun⟩, hburst,
      fun _ => ⟨rfl, rfl, rfl⟩, hunknown, fun hk => absurd rfl hk, h.eidx, nofun, fun _ => .inr (.inr rfl),
      fun _ => .inl rfl, ?_⟩
    have hbits : r.d_eidx = 0 ∨ somePair c (isBitPair c .bit0) = true ∨ somePair c (isBitPair c .bit1) = true := by
      by_contra hnone
      obtain ⟨hidx, h0, h1⟩ := by simpa only [not_or] using hnone
      exact hidx (BitVec.eq_of_toNat_eq (eq_zero_of_carries hcarries h0 h1))
    simpa [Decoder.resultPossible, hsync, hpair, or_assoc] using hbits
  | code3 => exact absurd herr h.err

/-- A PULSE that the port can carry keeps the decoder's registers at reached values. -/
theorem Decoder.pulse_check {c : Cfg} {r : Decoder} {d : Nat} (hcheck : r.check c = none) (hfit : c.fitsDur d = true)
    (lv : Level) : (r.pulse c lv d).check c = none := by
  cases hphase : r.d_phase with
  | drain =>
    rw [Decoder.pulse_of_drain hphase]
    exact Decoder.idle_check hcheck
  | collect =>
    have h := Decoder.advance_collected hcheck hfit lv
    obtain ⟨-, h81, -, hkind, -, hresult⟩ := Decoder.check_eq_none.1 hcheck
    have hcnt := Decoder.advance_d_cnt_toNat h81 c lv d
    by_cases hlast : r.d_cnt = 81
    · rw [Decoder.pulse_of_last hphase hlast]
      exact Decoder.complete_check h (by rw [hcnt, hlast]; rfl)
    · rw [Decoder.pulse_of_collect hphase hlast]
      have hless := mt Decoder.cnt_eq_81_iff.2 hlast
      have hcollect : (r.advance c lv d).d_phase = .collect := (Decoder.judge_d_phase ..).trans hphase
      have hkept : (r.advance c lv d).result = r.result := Decoder.judge_result c d r
      refine Decoder.check_eq_none.2 ⟨h.err, by omega, h.eidx, ?_, ⟨by simp [hcollect], fun hzero => ?_, h.hi, h.clean,
        h.sync, h.bit⟩, Decoder.resultSound_of_result hresult hkept hcollect rfl⟩
      · rw [show (r.advance c lv d).res_kind = r.res_kind from congrArg Result.kind hkept]
        exact hkind
      · have : (r.advance c lv d).d_cnt.toNat = 0 := congrArg BitVec.toNat hzero
        omega

/-! ## Every turn keeps the encoder's registers at reached values -/

/-- A cycle in which the encoder takes nothing (R248). -/
theorem Encoder.idle_check {c : Cfg} {e : Encoder} (h : e.check c = none) : e.idle.check c = none := by
  obtain ⟨hcodes, hbit, hfit, hidle, hsync, hgap, hbusy, hcode, -⟩ := Encoder.check_eq_none.1 h
  exact Encoder.check_eq_none.2 ⟨hcodes, hbit, hfit, hidle, hsync, hgap, hbusy, hcode, nofun⟩

/-- A rejected request (R242, R249). -/
theorem Encoder.finish_check {c : Cfg} {e : Encoder} {code : EncCode} (h : e.check c = none) (hidle : e.e_state = .idle)
    (hfailed : code = .unknownCommand ∨ code = .badRepeat) : (e.finish code).check c = none := by
  obtain ⟨hcodes, hbit, hfit, hclear, hsync, hgap, hbusy, hcode, -⟩ := Encoder.check_eq_none.1 h
  obtain ⟨hbit0, hrep0, hkept⟩ := hclear hidle
  have hok : code ≠ .ok := by rcases hfailed with rfl | rfl <;> nofun
  have hnone : code ≠ .none := by rcases hfailed with rfl | rfl <;> nofun
  refine Encoder.check_eq_none.2 ⟨hcodes, hbit, hfit, fun _ => ⟨hbit0, hrep0, ?_⟩, hsync, hgap, hbusy, hcode,
    fun _ => ⟨hidle, hnone⟩⟩
  show if e.e_code = 0 then code ≠ .ok else code ≠ .none ∧ c.fitsRep 1 = true
  split
  next => exact hok
  next hsent =>
    rw [if_neg hsent] at hkept
    exact ⟨hnone, hkept.2⟩

/-- A command that has a byte is recognised by it (R220, R221). -/
theorem commandFromByte_of_byteFromCommand {cmd : Command} {cb : CmdByte} (h : byteFromCommand cmd = .ok cb) :
    commandFromByte cb ≠ .unknown := by
  cases cmd <;> cases h <;> decide

/-- An accepted request (R246). -/
theorem Encoder.request_check {c : Cfg} {e : Encoder} {n : Nat} (h : e.check c = none) (hn : c.fitsRep n = true)
    (p : PilotId) (r : RollerId) (cmd : Command) : (e.request p r cmd n).check c = none := by
  unfold Encoder.request
  split
  next hready =>
    have hidle := Encoder.reqReady_iff.1 hready
    split
    next => exact Encoder.finish_check h hidle (.inl rfl)
    next cb hcb =>
      split
      next => exact Encoder.finish_check h hidle (.inr rfl)
      next hrep =>
        have hknown := commandFromByte_of_byteFromCommand hcb
        have hbyte : commandFromByte (cbyteOf (join40 p r cb)) ≠ .unknown := by rwa [cbyteOf_join40]
        have hcode : join40 p r cb ≠ 0 := fun hzero => hbyte (by rw [hzero]; decide)
        exact Encoder.check_eq_none.2 ⟨⟨nofun, nofun⟩, Nat.zero_le _, hn, nofun, fun _ => rfl, nofun,
          fun _ => ⟨hrep, hcode⟩, fun _ => hbyte, nofun⟩
  next => exact Encoder.idle_check h

/-- A cycle, whatever its inputs (R246–R248). -/
theorem Encoder.turn_check {c : Cfg} {e : Encoder} (h : e.check c = none) (p : Ports) :
    (e.turn c p).check c = none := by
  have hn : c.fitsRep (bitField p.req_word 34 c.R_W) = true := Cfg.fitsRep_iff.2 (bitField_lt ..)
  unfold Encoder.turn
  split
  · split
    · exact Encoder.request_check h hn ..
    · exact Encoder.idle_check h
  · split
    · exact Encoder.ack_check h
    · exact Encoder.idle_check h

/-! ## Runs of cycles -/

theorem step_no_token {s : State} {p : Ports} {rest : List Stimulus} (hs : s.pending = .cycle p :: rest)
    (hp : p.rst = false) (hvalid : p.in_valid = false) (hsound : s.Sound) :
    step s = .next { s with dec := s.dec.idle, enc := s.enc.turn s.cfg p, pending := rest } := by
  rw [step_cycle hs hp hsound.1 hsound.2, Decoder.turn_of_no_token hvalid]

/-- Settles O25: one such cycle drops the strobe, and after it each drops it again. -/
theorem decoderKeepsStateWithoutTokens : Obligations.DecoderKeepsStateWithoutTokens := by
  intro s ps rest hsound hne hquiet hs
  induction ps generalizing s with
  | nil => exact absurd rfl hne
  | cons p ps ih =>
    obtain ⟨hp, hvalid⟩ := hquiet p List.mem_cons_self
    have hstep := step_no_token hs hp hvalid hsound
    cases ps with
    | nil => exact ⟨_, Laws.run_succ 0 hstep, rfl, rfl⟩
    | cons q ps =>
      rw [List.length_cons, Laws.run_succ _ hstep]
      exact ih _ ⟨Decoder.idle_check hsound.1, Encoder.turn_check hsound.2 p⟩ nofun
        (fun x hx => hquiet x (List.mem_cons_of_mem _ hx)) rfl

/-- A sound state takes the line `PULSE`: the decoder a pulse, the encoder nothing. -/
theorem step_pulseLine {s : State} {lv : Level} {d : Nat} {rest : List Stimulus}
    (hs : s.pending = Script.pulse s.cfg lv d :: rest) (hfit : s.cfg.fitsDur d = true) (hsound : s.Sound) :
    step s = .next { s with dec := s.dec.pulse s.cfg lv d, enc := s.enc.idle, pending := rest } := by
  have hword := decodeToken_encodePulse lv (Cfg.fitsDur_iff.1 hfit)
  rw [step_cycle hs rfl hsound.1 hsound.2, Encoder.turn_quiet rfl rfl, Decoder.turn_of_decPulse rfl hword]

/-- A sound state takes the line `END`: the decoder closes its burst, the encoder nothing. -/
theorem step_endLine {s : State} {rest : List Stimulus} (hs : s.pending = Script.endLine s.cfg :: rest)
    (hsound : s.Sound) :
    step s = .next { s with dec := s.dec.endBurst, enc := s.enc.idle, pending := rest } := by
  rw [step_cycle hs rfl hsound.1 hsound.2, Encoder.turn_quiet rfl rfl,
    Decoder.turn_of_decEnd rfl (isEnd_encodeEnd s.cfg)]

/-- The lines of a burst feed it to the decoder. -/
theorem run_pulseLines {s : State} {b : List Pulse} {rest : List Stimulus} (hsound : s.Sound)
    (hfit : ∀ x ∈ b, s.cfg.fitsDur x.dur = true)
    (hs : s.pending = b.map (fun x => Script.pulse s.cfg x.level x.dur) ++ rest) :
    ∃ t, Sys2Proof.core.run b.length s = .next t ∧ t.Sound ∧ t.cfg = s.cfg ∧ t.pending = rest ∧
      t.dec = s.dec.feed s.cfg b := by
  induction b generalizing s with
  | nil => exact ⟨s, rfl, hsound, rfl, hs, rfl⟩
  | cons x b ih =>
    have hx := hfit x List.mem_cons_self
    rw [List.length_cons, Laws.run_succ _ (step_pulseLine hs hx hsound)]
    exact ih ⟨Decoder.pulse_check hsound.1 hx x.level, Encoder.idle_check hsound.2⟩
      (fun y hy => hfit y (List.mem_cons_of_mem _ hy)) rfl

/-! ## A burst closed by its END (R173) -/

/-- In `DRAIN` further pulses change nothing that is reported (R167). -/
theorem Decoder.feed_of_drain {c : Cfg} {r : Decoder} (hdrain : r.d_phase = .drain) (b : List Pulse) :
    (r.feed c b).d_phase = .drain ∧ (r.feed c b).result = r.result := by
  induction b generalizing r with
  | nil => exact ⟨hdrain, rfl⟩
  | cons x b ih =>
    have hfeed : r.feed c (x :: b) = r.idle.feed c b := by
      rw [← Decoder.pulse_of_drain hdrain c x.level x.dur]
      rfl
    rw [hfeed]
    exact ih hdrain

/-- A burst of any length, once END has closed it, has been reported. -/
theorem Decoder.Tracks.endBurst_feed {c : Cfg} {b : List Pulse} {r : Decoder} (h : r.Tracks c b 0) :
    (r.feed c b).endBurst.Reports (decodeCode c b) (levelViolation b) := by
  by_cases hlen : b.length < 82
  · exact (h.endBurst_feed_short hlen).2
  · obtain ⟨-, hdrain, hreports⟩ := h.feed_full (Nat.not_lt.1 hlen)
    have hsplit : r.feed c b = (r.feed c (b.take 82)).feed c (b.drop 82) := by
      rw [Decoder.feed, Decoder.feed, Decoder.feed, ← List.foldl_append, List.take_append_drop]
    obtain ⟨hdrain', hkept⟩ := Decoder.feed_of_drain hdrain (c := c) (b.drop 82)
    rw [hsplit, Decoder.endBurst_of_drain hdrain']
    exact hreports.congr hkept

/-- Settles O31: the lines feed the burst to the decoder, and the END closes it. -/
theorem everyClosedBurstIsReported : Obligations.EveryClosedBurstIsReported := by
  intro s b rest hsound hcollect hcnt hfit hs
  obtain ⟨u, hrun, hsound', hcfg, hpending, hdec⟩ := run_pulseLines hsound hfit hs
  have hend := Laws.run_succ 0 (step_endLine (hcfg ▸ hpending) hsound')
  obtain ⟨hphase, hcnt'⟩ := u.dec.endBurst_starts
  refine ⟨_, (Laws.run_add b.length 1 hrun).trans hend, rfl, hphase, hcnt', ?_⟩
  rw [hdec]
  exact (Decoder.Tracks.zero hsound.1 hcollect hcnt b).endBurst_feed

end Sys2Proof.Machine

/-! PROOFS. The family `43_command_mapper`: the mapper's table on both sides (R220, R221) and its inverse laws (R222). -/

namespace Sys2Proof.Machine

/-- R220's table, on the byte's value. -/
theorem commandFromByte_eq_ite_toNat (b : CmdByte) :
    commandFromByte b =
      if b.toNat = 0x11 then .up else if b.toNat = 0x33 then .down else if b.toNat = 0x55 then .stop else .unknown := by
  simp only [commandFromByte, ← BitVec.toNat_inj, BitVec.reduceToNat]

/-- Settles O37: the steps evaluate the mapper, whose two tables are R220's and R221's. -/
theorem mapperTable : Obligations.MapperTable := by
  intro s b hsound
  refine ⟨?_, exec_byteFromCmd hsound .up, exec_byteFromCmd hsound .down, exec_byteFromCmd hsound .stop,
    exec_byteFromCmd hsound .unknown⟩
  rw [exec_cmdFromByte hsound, commandFromByte_eq_ite_toNat]

/-! ## The inverse laws (R222) -/

theorem commandFromByte_eq_of_byteFromCommand {cmd : Command} {b : CmdByte} (h : byteFromCommand cmd = .ok b) :
    commandFromByte b = cmd := by
  cases cmd with
  | up | down | stop =>
    obtain rfl := Except.ok.inj h
    rfl
  | unknown => nomatch h

/-- A byte outside R220's table has no command to go back from. -/
theorem byteFromCommand_commandFromByte (b : CmdByte) :
    byteFromCommand (commandFromByte b) =
      if b.toNat = 0x11 ∨ b.toNat = 0x33 ∨ b.toNat = 0x55 then .ok b else .error .unknownCommand := by
  split
  next hbyte =>
    obtain rfl | rfl | rfl : b = 0x11 ∨ b = 0x33 ∨ b = 0x55 := by
      simpa only [← BitVec.toNat_inj, BitVec.reduceToNat] using hbyte
    all_goals rfl
  next hbyte =>
    obtain ⟨hup, hdown, hstop⟩ : b.toNat ≠ 0x11 ∧ b.toNat ≠ 0x33 ∧ b.toNat ≠ 0x55 := by
      simpa only [not_or] using hbyte
    rw [commandFromByte_eq_ite_toNat, if_neg hup, if_neg hdown, if_neg hstop, byteFromCommand]

/-- Settles O38. -/
theorem mapperInverseLaws : Obligations.MapperInverseLaws :=
  ⟨fun _ _ => commandFromByte_eq_of_byteFromCommand, byteFromCommand_commandFromByte⟩

end Sys2Proof.Machine

/-! PROOFS. The family `44_frame_encoder`: the sequences of `encode` (R240–R244) in closed form, and `decode` of the pulses
of a frame (R262). -/

namespace Sys2Proof.Machine

/-! ## The elements of a frame (R241) -/

/-- `m` rows of `w` values each, read row by row. -/
theorem flatMap_range_map {α : Type} (w m : Nat) (f : Nat → Nat → α) :
    ((List.range m).flatMap fun i => (List.range w).map (f i)) =
      (List.range (w * m)).map fun k => f (k / w) (k % w) := by
  induction m with
  | zero => rfl
  | succ m ih =>
    rw [List.range_succ, List.flatMap_append, ih, Nat.mul_succ, List.range_add, List.map_append, List.map_map,
      List.flatMap_singleton]
    congr 1
    refine List.map_congr_left fun j hj => ?_
    have hj : j < w := List.mem_range.1 hj
    show f m j = f ((w * m + j) / w) ((w * m + j) % w)
    rw [Nat.mul_add_div (by omega), Nat.div_eq_of_lt hj, Nat.add_zero, Nat.mul_add_mod, Nat.mod_eq_of_lt hj]

/-- The level of the pulse with index `j` (R65). -/
def pulseLevel (j : Nat) : Level := if j % 2 = 0 then .high else .low

theorem pulseLevel_mod_two (j : Nat) : pulseLevel (j % 2) = pulseLevel j := by
  rw [pulseLevel, Nat.mod_mod, pulseLevel]

/-- The symbol whose pulses have the indices `2 * i` and `2 * i + 1` (R63, R84). -/
def symbolAt (code : Code40) : Nat → Sym
  | 0 => .sync
  | i + 1 => .ofBit (codeBit code i)

/-- The element with index `j` of `frame(code)`. -/
def frameElement (c : Cfg) (code : Code40) (j : Nat) : Element :=
  ⟨nominal c (symbolAt code (j / 2)) (pulseLevel j), pulseLevel j, false, false⟩

theorem frameElement_even (c : Cfg) (code : Code40) (i : Nat) :
    frameElement c code (2 * i) = ⟨nominal c (symbolAt code i) .high, .high, false, false⟩ := by
  have heven : 2 * i % 2 = 0 := by omega
  have hhalf : 2 * i / 2 = i := by omega
  rw [frameElement, pulseLevel, hhalf, if_pos heven]

theorem frameElement_odd (c : Cfg) (code : Code40) (i : Nat) :
    frameElement c code (2 * i + 1) = ⟨nominal c (symbolAt code i) .low, .low, false, false⟩ := by
  have hodd : (2 * i + 1) % 2 ≠ 0 := by omega
  have hhalf : (2 * i + 1) / 2 = i := by omega
  rw [frameElement, pulseLevel, hhalf, if_neg hodd]

theorem frameElements_eq_map (c : Cfg) (code : Code40) :
    frameElements c code = (List.range 82).map (frameElement c code) := by
  have hrows : frameElements c code = (List.range 41).flatMap fun i =>
      (List.range 2).map fun j => ⟨nominal c (symbolAt code i) (pulseLevel j), pulseLevel j, false, false⟩ := by
    rw [List.range_succ_eq_map (n := 40), List.flatMap_cons, List.flatMap_map]
    rfl
  rw [hrows, flatMap_range_map]
  simp only [pulseLevel_mod_two]
  rfl

theorem length_frameElements (c : Cfg) (code : Code40) : (frameElements c code).length = 82 := by
  rw [frameElements_eq_map, List.length_map, List.length_range]

theorem getElem?_frameElements {c : Cfg} {code : Code40} {j : Nat} (hj : j < 82) :
    (frameElements c code)[j]? = some (frameElement c code j) := by
  rw [frameElements_eq_map, List.getElem?_map, List.getElem?_range hj, Option.map_some]

/-! ## The elements of an encoding (R240, R244) -/

/-- The element with index `j` of a frame and the gap that follows it. -/
def slotElement (c : Cfg) (code : Code40) (j : Nat) : Element :=
  if j = 82 then gapElement c else frameElement c code j

theorem slotElement_of_lt {j : Nat} (hj : j < 82) (c : Cfg) (code : Code40) :
    slotElement c code j = frameElement c code j :=
  if_neg hj.ne

@[simp] theorem slotElement_last (c : Cfg) (code : Code40) (j : Nat) : (slotElement c code j).last = false := by
  unfold slotElement
  split <;> rfl

theorem slotElement_gap_iff {c : Cfg} {code : Code40} {j : Nat} : (slotElement c code j).gap = true ↔ j = 82 := by
  unfold slotElement
  split
  next h => exact iff_of_true rfl h
  next h => exact iff_of_false nofun h

theorem frameElements_eq_map_slotElement (c : Cfg) (code : Code40) :
    frameElements c code = (List.range 82).map (slotElement c code) := by
  rw [frameElements_eq_map]
  exact List.map_congr_left fun j hj => (slotElement_of_lt (List.mem_range.1 hj) c code).symm

/-- The elements of `n` repetitions, a gap between two. -/
theorem repetitions_eq_map {n : Nat} (hn : 1 ≤ n) (c : Cfg) (code : Code40) :
    repetitions c code n = (List.range (83 * n - 1)).map fun k => slotElement c code (k % 83) := by
  obtain ⟨m, rfl⟩ : ∃ m, n = m + 1 := ⟨n - 1, by omega⟩
  have hslots : frameElements c code ++ [gapElement c] = (List.range 83).map (slotElement c code) := by
    rw [List.range_succ, List.map_append, ← frameElements_eq_map_slotElement]
    rfl
  have hbefore : ((List.range m).flatMap fun r => frameElements c code ++ if r < m + 1 - 1 then [gapElement c] else []) =
      (List.range m).flatMap fun _ => (List.range 83).map (slotElement c code) :=
    List.flatMap_congr fun r hr => by rw [Nat.add_sub_cancel, if_pos (List.mem_range.1 hr), hslots]
  have hlen : 83 * (m + 1) - 1 = 83 * m + 82 := by omega
  rw [repetitions, List.range_succ, List.flatMap_append, List.flatMap_singleton, hbefore,
    flatMap_range_map 83 m fun _ => slotElement c code, if_neg (by omega), List.append_nil, hlen, List.range_add,
    List.map_append, List.map_map, frameElements_eq_map_slotElement]
  congr 1
  refine List.map_congr_left fun j hj => ?_
  have hj : j < 82 := List.mem_range.1 hj
  rw [Function.comp_apply, Nat.mul_add_mod, Nat.mod_eq_of_lt (by omega)]

theorem markLast_append_singleton (l : List Element) (x : Element) :
    markLast (l ++ [x]) = l ++ [{ x with last := true }] := by
  induction l with
  | nil => rfl
  | cons y l ih =>
    rw [List.cons_append, List.cons_append, ← ih]
    cases l <;> rfl

/-- The element an encoding offers when it has `left` elements left. -/
def elementWithLeft (c : Cfg) (code : Code40) (left : Nat) : Element :=
  { slotElement c code (82 - left % 83) with last := decide (left = 1) }

/-- Position `k` of an encoding of `n` repetitions is slot `k % 83` of its repetition. -/
theorem slot_of_left {n k : Nat} (hk : k < 83 * n - 1) : 82 - (83 * n - 1 - k) % 83 = k % 83 := by omega

/-- R240, R244: an encoding, element by element. -/
theorem markLast_repetitions {n : Nat} (hn : 1 ≤ n) (c : Cfg) (code : Code40) :
    markLast (repetitions c code n) =
      (List.range (83 * n - 1)).map fun k => elementWithLeft c code (83 * n - 1 - k) := by
  obtain ⟨l, hl⟩ : ∃ l, 83 * n - 1 = l + 1 := ⟨83 * n - 2, by omega⟩
  rw [repetitions_eq_map hn, hl, List.range_succ, List.map_append, List.map_singleton, markLast_append_singleton,
    List.map_append, List.map_singleton]
  congr 1
  · refine List.map_congr_left fun k hk => ?_
    have hk : k < l := List.mem_range.1 hk
    have hslot : 82 - (l + 1 - k) % 83 = k % 83 := hl ▸ slot_of_left (by omega)
    have hlast : decide (l + 1 - k = 1) = (slotElement c code (k % 83)).last := by
      rw [slotElement_last, decide_eq_false_iff_not]
      omega
    rw [elementWithLeft, hslot, hlast]
  · have hslot : 82 - (l + 1 - l) % 83 = l % 83 := hl ▸ slot_of_left (by omega)
    have hlast : l + 1 - l = 1 := by omega
    rw [elementWithLeft, hslot, decide_eq_true hlast]

theorem exists_byteFromCommand {cmd : Command} (h : cmd ≠ .unknown) : ∃ cb, byteFromCommand cmd = .ok cb := by
  cases cmd with
  | unknown => exact absurd rfl h
  | up | down | stop => exact ⟨_, rfl⟩

theorem encodeFrame_of_error {cmd : Command} {err : EncodeError} (h : byteFromCommand cmd = .error err) (c : Cfg)
    (p : PilotId) (r : RollerId) (n : Nat) : encodeFrame c p r cmd n = .error err := by
  rw [encodeFrame, h]

theorem encodeFrame_zero {cmd : Command} {cb : CmdByte} (h : byteFromCommand cmd = .ok cb) (c : Cfg)
    (p : PilotId) (r : RollerId) : encodeFrame c p r cmd 0 = .error .badRepeat := by
  rw [encodeFrame, h]
  rfl

theorem encodeFrame_of_ok {cmd : Command} {cb : CmdByte} {n : Nat} (h : byteFromCommand cmd = .ok cb) (hn : n ≠ 0)
    (c : Cfg) (p : PilotId) (r : RollerId) : encodeFrame c p r cmd n =
      .ok ((List.range (83 * n - 1)).map fun k => elementWithLeft c (join40 p r cb) (83 * n - 1 - k)) := by
  rw [encodeFrame, h, ← markLast_repetitions (Nat.one_le_iff_ne_zero.2 hn)]
  exact if_neg hn

/-- Settles O44. -/
theorem encodedSequenceShape : Obligations.EncodedSequenceShape := by
  intro c p r cmd cb n hn hcb
  refine ⟨_, encodeFrame_of_ok hcb (by omega) c p r, by simp, length_frameElements .., fun k x hx => ?_⟩
  obtain ⟨hk, hx⟩ := List.getElem?_eq_some_iff.1 hx
  rw [List.length_map, List.length_range] at hk
  rw [List.getElem_map, List.getElem_range] at hx
  subst hx
  have hslot := slot_of_left hk
  refine ⟨?_, ?_, fun hframe => ?_, fun hgap => ?_⟩
  · rw [← hslot]
    exact slotElement_gap_iff
  · rw [elementWithLeft, decide_eq_true_iff]
    omega
  · rw [getElem?_frameElements hframe, elementWithLeft, hslot, slotElement_of_lt hframe]
    rfl
  · have hlast : 83 * n - 1 - k ≠ 1 := by omega
    rw [elementWithLeft, hslot, hgap, decide_eq_false hlast]
    rfl

/-! ## Decoding the pulses of a frame (R160, R262) -/

/-- The pulses of `frame(code)`. -/
def framePulses (c : Cfg) (code : Code40) : List Pulse := (frameElements c code).map Element.pulse

theorem framePulses_eq_map (c : Cfg) (code : Code40) :
    framePulses c code = (List.range 82).map fun j => (frameElement c code j).pulse := by
  rw [framePulses, frameElements_eq_map, List.map_map]
  rfl

theorem length_framePulses (c : Cfg) (code : Code40) : (framePulses c code).length = 82 :=
  (List.length_map ..).trans (length_frameElements c code)

theorem durAt_framePulses {j : Nat} (hj : j < 82) (c : Cfg) (code : Code40) :
    durAt (framePulses c code) j = (frameElement c code j).dur := by
  rw [durAt_eq_getElem (by rwa [length_framePulses])]
  simp [framePulses_eq_map, Element.pulse]

theorem durAt_framePulses_bit {i : Nat} (hi : i < 40) (c : Cfg) (code : Code40) :
    durAt (framePulses c code) (2 + 2 * i) = nominal c (.ofBit (codeBit code i)) .high ∧
      durAt (framePulses c code) (2 + 2 * i + 1) = nominal c (.ofBit (codeBit code i)) .low := by
  have hhigh : 2 + 2 * i = 2 * (i + 1) := by omega
  rw [durAt_framePulses (by omega), durAt_framePulses (by omega), hhigh, frameElement_even, frameElement_odd]
  exact ⟨rfl, rfl⟩

/-- The levels of a frame are the expected ones (R65). -/
theorem levelViolation_framePulses (c : Cfg) (code : Code40) : levelViolation (framePulses c code) = false := by
  rw [levelViolation, List.any_eq_false]
  rintro ⟨x, j⟩ hx
  have hx : ((framePulses c code).take 82)[j]? = some x := List.mk_mem_zipIdx_iff_getElem?.1 hx
  rw [← length_framePulses c code, List.take_length, framePulses_eq_map, List.getElem?_map, Option.map_eq_some_iff] at hx
  obtain ⟨k, hk, rfl⟩ := hx
  obtain ⟨-, rfl⟩ := List.getElem?_eq_some_iff.1 hk
  simp [frameElement, Element.pulse, pulseLevel]

/-- R22 W3 for the bit symbols. -/
theorem classifyBit_nominal {c : Cfg} (h : nominalsClassify c = true) (b : Bool) :
    classifyBit c (nominal c (.ofBit b) .high) (nominal c (.ofBit b) .low) = .ofBool b := by
  simp only [nominalsClassify, Bool.and_eq_true, beq_iff_eq] at h
  obtain ⟨⟨-, h0⟩, h1⟩ := h
  cases b with
  | false => exact h0
  | true => exact h1

theorem classifySync_nominal {c : Cfg} (h : nominalsClassify c = true) :
    classifySync c (nominal c .sync .high) (nominal c .sync .low) = true := by
  simp only [nominalsClassify, Bool.and_eq_true] at h
  exact h.1.1

/-- Shifting in the next bit of a word below the bits that stand above it (R166). -/
theorem shiftIn_ushiftRight (code : Code40) (m : Nat) :
    shiftIn (code >>> (m + 1)) (code.getLsbD m) = code >>> m := by
  apply BitVec.eq_of_toNat_eq
  have hlt := (code >>> m).isLt
  rw [BitVec.toNat_ushiftRight, Nat.shiftRight_eq_div_pow] at hlt
  have hhalf : code.toNat / 2 ^ (m + 1) = code.toNat / 2 ^ m / 2 := by rw [Nat.pow_succ, Nat.div_div_eq_div_mul]
  rw [shiftIn_eq, BitVec.toNat_ofNat, BitVec.toNat_ushiftRight, BitVec.toNat_ushiftRight, Nat.shiftRight_eq_div_pow,
    Nat.shiftRight_eq_div_pow, BitVec.getLsbD, Nat.toNat_testBit, hhalf]
  omega

theorem decodePair_of_ofBool {c : Cfg} {b : List Pulse} {i : Nat} {bit : Bool}
    (h : classifyBit c (durAt b (2 + 2 * i)) (durAt b (2 + 2 * i + 1)) = .ofBool bit) (acc : Code40) :
    decodePair c b acc i = .ok (shiftIn acc bit) := by
  rw [decodePair, h]
  cases bit <;> rfl

/-- After `n` bit pairs of a frame the accumulator holds the code's first `n` bits. -/
theorem decodePairs_framePulses {c : Cfg} (h : nominalsClassify c = true) (code : Code40) {n : Nat} (hn : n ≤ 40) :
    decodePairs c (framePulses c code) n = .ok (code >>> (40 - n)) := by
  induction n with
  | zero =>
    have hempty : code >>> (40 - 0) = 0 := BitVec.ushiftRight_eq_zero (le_refl 40)
    rw [decodePairs_zero, hempty]
  | succ n ih =>
    obtain ⟨hhigh, hlow⟩ := durAt_framePulses_bit (show n < 40 by omega) c code
    have hpair := classifyBit_nominal h (codeBit code n)
    rw [← hhigh, ← hlow] at hpair
    have hleft : 40 - n = 39 - n + 1 := by omega
    have hleft' : 40 - (n + 1) = 39 - n := by omega
    rw [decodePairs_succ, ih (by omega), hleft, hleft', ← shiftIn_ushiftRight code (39 - n)]
    exact decodePair_of_ofBool hpair _

/-- R162: the pulses of `frame(code)` decode to `code`, whatever its command byte. -/
theorem decodeCode_framePulses {c : Cfg} (h : nominalsClassify c = true) (code : Code40) :
    decodeCode c (framePulses c code) = .ok code := by
  have hsync : classifySync c (durAt (framePulses c code) 0) (durAt (framePulses c code) 1) = true := by
    rw [durAt_framePulses (by omega), durAt_framePulses (by omega)]
    exact classifySync_nominal h
  rw [decodeCode_eq_decodePairs (length_framePulses c code).ge hsync, decodePairs_framePulses h code le_rfl,
    BitVec.ushiftRight_zero]

/-- The mark on the final element is no part of its pulse. -/
theorem map_pulse_markLast (l : List Element) : (markLast l).map Element.pulse = l.map Element.pulse := by
  rcases List.eq_nil_or_concat l with rfl | ⟨l, x, rfl⟩
  · rfl
  · rw [List.concat_eq_append, markLast_append_singleton, List.map_append, List.map_append]
    rfl

theorem repetitions_one (c : Cfg) (code : Code40) : repetitions c code 1 = frameElements c code :=
  List.append_nil _

/-- Settles O48: one repetition is the frame of the joined fields, which decodes to them, and they are split again. -/
theorem roundTripLaw : Obligations.RoundTripLaw := by
  intro c p r cmd hnominal hcmd
  obtain ⟨cb, hcb⟩ := exists_byteFromCommand hcmd
  have hseq : encodeFrame c p r cmd 1 = .ok (markLast (frameElements c (join40 p r cb))) := by
    rw [encodeFrame, hcb, ← repetitions_one]
    rfl
  refine ⟨_, hseq, ?_⟩
  rw [map_pulse_markLast, ← framePulses, decodeFrame_of_ok (decodeCode_framePulses hnominal _), pilotOf_join40,
    rollerOf_join40, cbyteOf_join40, commandFromByte_eq_of_byteFromCommand hcb]

/-! ## The lines of a frame (R100) -/

theorem nominal_mem_nominals (c : Cfg) (y : Sym) (lv : Level) : nominal c y lv ∈ c.nominals := by
  cases y <;> cases lv <;> simp [nominal, Cfg.nominals]

theorem fitsDur_of_mem_framePulses {c : Cfg} (h : c.nominals.all c.fitsDur = true) {code : Code40} {x : Pulse}
    (hx : x ∈ framePulses c code) : c.fitsDur x.dur = true := by
  rw [framePulses_eq_map, List.mem_map] at hx
  obtain ⟨j, -, rfl⟩ := hx
  exact List.all_eq_true.1 h _ (nominal_mem_nominals c ..)

theorem Script.frame_eq_map (c : Cfg) (code : Code40) :
    Script.frame c code = (framePulses c code).map fun x => Script.pulse c x.level x.dur := by
  simp only [Script.frame, framePulses, frameElements, List.map_append, List.map_flatMap]
  rfl

/-- Settles O32: the lines feed the pulses of the frame to the decoder, which reports their code. -/
theorem frameLinesPublishTheirCode : Obligations.FrameLinesPublishTheirCode := by
  intro s x rest hsound hcollect hcnt hnominal hfit hs
  rw [Script.frame_eq_map] at hs
  obtain ⟨t, hrun, -, -, hpending, hdec⟩ := run_pulseLines hsound (fun y => fitsDur_of_mem_framePulses hfit) hs
  have htracks := Decoder.Tracks.zero hsound.1 hcollect hcnt (framePulses s.cfg x)
  obtain ⟨hvalid, hdrain, hreports⟩ := htracks.feed_full (length_framePulses s.cfg x).ge
  rw [← length_framePulses s.cfg x, List.take_length, ← hdec] at hvalid hdrain hreports
  rw [decodeCode_framePulses hnominal, levelViolation_framePulses] at hreports
  obtain ⟨hlvl, hkind, -, hpilot, hroller, hcbyte, hcmd⟩ := hreports
  rw [length_framePulses] at hrun
  refine ⟨t, hrun, hpending, hvalid, hdrain, hkind, ?_, ?_, hlvl⟩
  · rw [hpilot, hroller, hcbyte, join40_fields]
  · rw [hcmd, ← cbyteOf_ofNat, BitVec.ofNat_toNat, BitVec.setWidth_eq]

end Sys2Proof.Machine

/-! PROOFS. The family `44_frame_encoder`: the encoder's transactions (R246–R252), and the serializer against `encode`
(R255, R256). -/

namespace Sys2Proof.Machine

/-! ## A request (R246) -/

theorem exec_encReq {s : State} (hcheck : s.enc.check s.cfg = none) (p : PilotId) (r : RollerId) (cmd : Command)
    (n : Nat) : exec (.encReq p r cmd n) s = .next { s with enc := s.enc.request p r cmd n } :=
  onEncoder_eq_next.2 ⟨hcheck, rfl⟩

theorem exec_encAck {s : State} (hcheck : s.enc.check s.cfg = none) :
    exec .encAck s = .next { s with enc := s.enc.ack } :=
  onEncoder_eq_next.2 ⟨hcheck, rfl⟩

/-- The encoder once a good request is taken: the sync pulse of the first of `n` repetitions is offered. -/
def Encoder.start (code : Code40) (n : Nat) (e : Encoder) : Encoder :=
  { e.idle with e_code := code, e_rep := n, e_bit := 0, e_state := .syncH }

theorem Encoder.request_of_error {e : Encoder} {cmd : Command} {err : EncodeError} (hidle : e.e_state = .idle)
    (h : byteFromCommand cmd = .error err) (p : PilotId) (r : RollerId) (n : Nat) :
    e.request p r cmd n = e.finish .unknownCommand := by
  rw [Encoder.request, if_pos (Encoder.reqReady_iff.2 hidle), h]

theorem Encoder.request_zero {e : Encoder} {cmd : Command} {cb : CmdByte} (hidle : e.e_state = .idle)
    (h : byteFromCommand cmd = .ok cb) (p : PilotId) (r : RollerId) :
    e.request p r cmd 0 = e.finish .badRepeat := by
  rw [Encoder.request, if_pos (Encoder.reqReady_iff.2 hidle), h]
  rfl

theorem Encoder.request_of_ok {e : Encoder} {cmd : Command} {cb : CmdByte} {n : Nat} (hidle : e.e_state = .idle)
    (h : byteFromCommand cmd = .ok cb) (hn : n ≠ 0) (p : PilotId) (r : RollerId) :
    e.request p r cmd n = e.start (join40 p r cb) n := by
  rw [Encoder.request, if_pos (Encoder.reqReady_iff.2 hidle), h]
  exact if_neg hn

theorem byteFromCommand_unknown : byteFromCommand .unknown = .error .unknownCommand := rfl

/-- R221's rows. -/
theorem byteFromCommand_of_mem {cmd : Command} {cb : CmdByte}
    (h : (cmd, cb) ∈ [(Command.up, 0x11#8), (.down, 0x33#8), (.stop, 0x55#8)]) : byteFromCommand cmd = .ok cb := by
  simp only [List.mem_cons, List.not_mem_nil, or_false, Prod.mk.injEq] at h
  obtain ⟨rfl, rfl⟩ | ⟨rfl, rfl⟩ | ⟨rfl, rfl⟩ := h <;> rfl

theorem join40_eq_ofNat (p : PilotId) (r : RollerId) (cb : CmdByte) :
    join40 p r cb = BitVec.ofNat 40 (p.toNat * 2 ^ 12 + r.toNat * 2 ^ 8 + cb.toNat) := by
  rw [← join40_toNat, BitVec.ofNat_toNat, BitVec.setWidth_eq]

/-- Settles O39. -/
theorem requestStartsOrEnds : Obligations.RequestStartsOrEnds := by
  intro s p r cmd n hcheck
  rw [exec_encReq hcheck]
  refine ⟨fun hidle hcmd => ?_, fun hidle hcmd hn => ?_, fun hidle hn cb hcb => ?_, fun hbusy => ?_⟩
  · subst hcmd
    rw [Encoder.request_of_error hidle byteFromCommand_unknown, Encoder.finish]
  · obtain ⟨cb, hcb⟩ := exists_byteFromCommand hcmd
    rw [hn, Encoder.request_zero hidle hcb, Encoder.finish]
  · rw [Encoder.request_of_ok hidle (byteFromCommand_of_mem hcb) hn, ← join40_eq_ofNat]
    rfl
  · rw [Encoder.request_of_busy hbusy, Encoder.idle]

/-! ## A handshake (R247) -/

/-- A handshake that does not take the only element left reports nothing (R249). -/
theorem Encoder.ack_status {c : Cfg} {e : Encoder} (h : e.check c = none) (hleft : e.elementsLeft ≠ 1) :
    e.ack.enc_done = false ∧ e.ack.enc_code = e.enc_code := by
  rw [ne_eq, Encoder.elementsLeft_eq_one_iff h] at hleft
  rcases Encoder.ack_cases h with ⟨-, hack⟩ | ⟨-, hack⟩ | ⟨-, hack⟩ | ⟨-, hack⟩ | ⟨-, -, hack⟩ | ⟨-, -, -, hack⟩ |
      ⟨hst, h39, hrep, hack⟩ | ⟨-, hack⟩ <;> rw [hack]
  case inr.inr.inr.inr.inr.inr.inl => exact absurd ⟨hst, h39, hrep⟩ hleft
  all_goals exact ⟨rfl, rfl⟩

/-- The encoding ends with the handshake that takes the only element left (R249). -/
theorem Encoder.ack_enc_done_iff {c : Cfg} {e : Encoder} (h : e.check c = none) :
    e.ack.enc_done = true ↔ e.elementsLeft = 1 := by
  by_cases hleft : e.elementsLeft = 1
  · rw [Encoder.ack_of_elementsLeft_eq_one h hleft]
    exact iff_of_true rfl hleft
  · rw [(Encoder.ack_status h hleft).1]
    exact iff_of_false nofun hleft

/-- Settles O40. -/
theorem handshakeAdvancesSerializer : Obligations.HandshakeAdvancesSerializer := by
  intro s hcheck
  rw [exec_encAck hcheck]
  refine ⟨fun hst => ?_, fun hst => ?_, fun hst => ?_, fun hst => ?_, fun hst hbit => ?_, fun hst hbit hrep => ?_,
    fun hst hbit hrep => ?_, fun hst => ?_, fun hrun => ?_⟩
  · rw [Encoder.ack_of_idle hst, Encoder.idle]
  · simp only [Encoder.ack, hst, Encoder.idle]
  · simp only [Encoder.ack, hst, Encoder.idle]
  · simp only [Encoder.ack, hst, Encoder.idle]
  · have hlt : s.enc.e_bit < 39 := hbit
    simp only [Encoder.ack, hst, if_pos hlt, Encoder.idle]
  · have hlast : ¬ s.enc.e_bit < 39 := by simp [hbit]
    simp only [Encoder.ack, hst, if_neg hlast, if_pos hrep, Encoder.idle]
  · have hleft := (Encoder.elementsLeft_eq_one_iff hcheck).2 ⟨hst, hbit, hrep⟩
    rw [Encoder.ack_of_elementsLeft_eq_one hcheck hleft]
  · simp only [Encoder.ack, hst, Encoder.idle]
  · obtain ⟨x, hx, hlast⟩ := Encoder.offered_last hcheck hrun
    exact ⟨x, _, hx, rfl, Bool.eq_iff_iff.2 ((Encoder.ack_enc_done_iff hcheck).trans hlast.symm)⟩

/-! ## The element offered (R251) -/

/-- The nominal durations of the bit symbols, by the bit. -/
theorem nominal_ofBit (c : Cfg) (b : Bool) :
    nominal c (.ofBit b) .high = (if b then c.B1H_NOM else c.B0H_NOM) ∧
      nominal c (.ofBit b) .low = (if b then c.B1L_NOM else c.B0L_NOM) := by
  cases b <;> exact ⟨rfl, rfl⟩

theorem Encoder.outValid_iff {e : Encoder} : e.outValid = true ↔ e.e_state ≠ .idle := by
  simp [Encoder.outValid]

theorem Encoder.bit_eq_39_iff {e : Encoder} : e.e_bit = 39 ↔ e.e_bit.toNat = 39 := by
  rw [← BitVec.toNat_inj]
  rfl

/-- Settles O41. -/
theorem outputFunction : Obligations.OutputFunction := by
  intro c e hbit
  have hlast : (e.e_bit == 39 && e.e_rep == 1) = decide (e.e_bit.toNat = 39 ∧ e.e_rep = 1) := by
    rw [Bool.eq_iff_iff, Bool.and_eq_true, beq_iff_eq, beq_iff_eq, decide_eq_true_iff, Encoder.bit_eq_39_iff]
  obtain ⟨hhigh, hlow⟩ := nominal_ofBit c (e.e_code.getLsbD (39 - e.e_bit.toNat))
  rw [Encoder.element, if_neg (Nat.not_lt.2 hbit), ← hlast]
  refine ⟨Encoder.outValid_iff, fun hst => ?_, fun hst => ?_, fun hst => ?_, fun hst => ?_, fun hst => ?_, fun hst => ?_⟩
  · simp only [hst, nominal]
  · simp only [hst, nominal]
  · simp only [hst, codeBit, hhigh]
  · simp only [hst, codeBit, hlow]
  · simp only [hst]
  · simp only [hst]

/-- The index of the element offered among those of its repetition and the gap after it. -/
def Encoder.slot (e : Encoder) : Nat :=
  match e.e_state with
  | .idle | .code6 | .code7 | .syncH => 0
  | .syncL => 1
  | .bitH => 2 * (e.e_bit.toNat + 1)
  | .bitL => 2 * (e.e_bit.toNat + 1) + 1
  | .gap => 82

theorem Encoder.slot_eq {c : Cfg} {e : Encoder} (h : e.check c = none) (hrun : e.e_state ≠ .idle) :
    82 - e.elementsLeft % 83 = e.slot := by
  obtain ⟨⟨h6, h7⟩, hbit, -⟩ := Encoder.check_eq_none.1 h
  cases hst : e.e_state with
  | idle => exact absurd hst hrun
  | code6 => exact absurd hst h6
  | code7 => exact absurd hst h7
  | syncH | syncL | bitH | bitL | gap =>
    simp only [Encoder.elementsLeft, Encoder.slot, hst]
    omega

/-- A sound encoder that runs offers the element that the count of those left calls for. -/
theorem Encoder.offered_eq {c : Cfg} {e : Encoder} (h : e.check c = none) (hrun : e.e_state ≠ .idle) (c' : Cfg) :
    e.offered c' = some (elementWithLeft c' e.e_code e.elementsLeft) := by
  obtain ⟨⟨h6, h7⟩, hbit, -⟩ := Encoder.check_eq_none.1 h
  have hlast : decide (e.elementsLeft = 1) = (e.e_state == .bitL && (e.e_bit == 39 && e.e_rep == 1)) := by
    rw [decide_eq_decide.2 (Encoder.elementsLeft_eq_one_iff h), Bool.decide_and, Bool.decide_and]
    rfl
  rw [Encoder.offered, if_pos (Encoder.outValid_iff.2 hrun), Encoder.element, if_neg (Nat.not_lt.2 hbit),
    elementWithLeft, hlast, Encoder.slot_eq h hrun, Encoder.slot]
  cases hst : e.e_state with
  | idle => exact absurd hst hrun
  | code6 => exact absurd hst h6
  | code7 => exact absurd hst h7
  | gap => rfl
  | syncH | syncL => simp [slotElement, frameElement, symbolAt, pulseLevel]
  | bitH =>
    dsimp only
    rw [slotElement_of_lt (by omega), frameElement_even]
    rfl
  | bitL =>
    dsimp only
    rw [slotElement_of_lt (by omega), frameElement_odd]
    rfl

/-! ## The serializer and `encode` (R255) -/

/-- A good request leaves the encoder's registers at reached values (R314), if its repeat count fits. -/
theorem Encoder.start_check {c : Cfg} {code : Code40} {n : Nat} (hcode : commandFromByte (cbyteOf code) ≠ .unknown)
    (hn : n ≠ 0) (hfit : c.fitsRep n = true) (e : Encoder) : (e.start code n).check c = none := by
  have hsent : code ≠ 0 := by
    rintro rfl
    exact hcode (by decide)
  exact Encoder.check_eq_none.2 ⟨⟨nofun, nofun⟩, Nat.zero_le _, hfit, nofun, fun _ => rfl, nofun,
    fun _ => ⟨hn, hsent⟩, fun _ => hcode, nofun⟩

/-- `83 * n - 1` elements are to be taken (R244). -/
theorem Encoder.elementsLeft_start {n : Nat} (hn : n ≠ 0) (code : Code40) (e : Encoder) :
    (e.start code n).elementsLeft = 83 * n - 1 := by
  show 83 * (n - 1) + 82 = 83 * n - 1
  omega

/-- The handshakes that take every element left end the encoding. -/
theorem Encoder.iterate_ack_elementsLeft {c : Cfg} {e : Encoder} (h : e.check c = none) (hrun : e.e_state ≠ .idle) :
    Encoder.ack^[e.elementsLeft] e = ⟨.idle, e.e_code, 0, 0, true, .ok⟩ := by
  have hpos := (Encoder.elementsLeft_pos_iff h).2 hrun
  obtain ⟨k, hk⟩ := Nat.exists_eq_succ_of_ne_zero hpos.ne'
  obtain ⟨hcheck, hleft, hcode⟩ := Encoder.iterate_ack h k
  rw [hk, Function.iterate_succ_apply', Encoder.ack_of_elementsLeft_eq_one hcheck (by omega), hcode]

/-- While elements are left, the `k`-th handshake finds the one that `encode` has at position `k`. -/
theorem Encoder.offered_iterate_ack {c : Cfg} {e : Encoder} (h : e.check c = none) {k : Nat} (hk : k < e.elementsLeft)
    (c' : Cfg) : (Encoder.ack^[k] e).offered c' = some (elementWithLeft c' e.e_code (e.elementsLeft - k)) := by
  obtain ⟨hcheck, hleft, hcode⟩ := Encoder.iterate_ack h k
  have hrun := (Encoder.elementsLeft_pos_iff hcheck).1 (by omega)
  rw [Encoder.offered_eq hcheck hrun, hleft, hcode]

theorem Encoder.offered_of_idle {e : Encoder} (h : e.e_state = .idle) (c : Cfg) : e.offered c = none :=
  if_neg (mt Encoder.outValid_iff.1 (not_not.2 h))

/-- Settles O45: `encode` and the serializer are described by the same count of elements left. The repeat count of the
request need not fit the encoder's own register, since no handshake looks at its width. -/
theorem encoderAgreesWithEncode : Obligations.EncoderAgreesWithEncode := by
  intro c e p r cmd n hcheck hidle
  cases hcmd : byteFromCommand cmd with
  | error err =>
    obtain rfl : err = .unknownCommand := by
      cases cmd <;> cases hcmd
      rfl
    simp only [encodeFrame_of_error hcmd, Encoder.request_of_error hidle hcmd]
    exact ⟨Encoder.offered_of_idle hidle c, rfl, rfl⟩
  | ok cb =>
    by_cases hn : n = 0
    · subst hn
      simp only [encodeFrame_zero hcmd, Encoder.request_zero hidle hcmd]
      exact ⟨Encoder.offered_of_idle hidle c, rfl, rfl⟩
    · have hknown : commandFromByte (cbyteOf (join40 p r cb)) ≠ .unknown := by
        rw [cbyteOf_join40]
        exact commandFromByte_of_byteFromCommand hcmd
      have hfit : ({ c with R_W := n } : Cfg).fitsRep n = true := Cfg.fitsRep_iff.2 Nat.lt_two_pow_self
      have hstart := Encoder.start_check hknown hn hfit e
      have hleft := Encoder.elementsLeft_start hn (join40 p r cb) e
      have hend := Encoder.iterate_ack_elementsLeft hstart nofun
      simp only [encodeFrame_of_ok hcmd hn, Encoder.request_of_ok hidle hcmd hn, List.length_map, List.length_range]
      rw [← hleft, hend]
      refine ⟨fun k x hx => ?_, rfl, rfl, rfl⟩
      obtain ⟨hk, hx⟩ := List.getElem?_eq_some_iff.1 hx
      rw [List.length_map, List.length_range] at hk
      rw [List.getElem_map, List.getElem_range] at hx
      rw [Encoder.offered_iterate_ack hstart hk, ← hx]
      rfl

/-! ## Cycles in which the encoder takes nothing (R248) -/

theorem Encoder.turn_of_not_taken {c : Cfg} {p : Ports} {e : Encoder}
    (h : (if e.e_state = .idle then p.req_valid else p.out_ready) = false) : e.turn c p = e.idle := by
  unfold Encoder.turn
  split at h
  next hidle => rw [if_pos (Encoder.reqReady_iff.2 hidle), if_neg (by simp [h])]
  next hrun => rw [if_neg (mt Encoder.reqReady_iff.1 hrun), if_neg (by simp [h])]

/-- An END keeps the decoder's registers at reached values. -/
theorem Decoder.endBurst_check {c : Cfg} {r : Decoder} (hcheck : r.check c = none) : r.endBurst.check c = none := by
  cases hphase : r.d_phase with
  | drain =>
    obtain ⟨-, -, -, hkind, -, hresult⟩ := Decoder.check_eq_none.1 hcheck
    rw [Decoder.endBurst_of_drain hphase]
    exact Decoder.check_eq_none.2 ⟨nofun, Nat.zero_le _, Nat.zero_le _, hkind,
      Decoder.clearBurst_burstSound c r.idle .collect, Decoder.resultSound_of_result hresult rfl rfl rfl⟩
  | collect =>
    have hunknown : Command.unknown = commandFromByte 0 := by decide
    rw [Decoder.endBurst_of_collect hphase]
    exact Decoder.check_eq_none.2 ⟨nofun, Nat.zero_le _, Nat.zero_le _, ⟨nofun, nofun, nofun⟩,
      Decoder.clearBurst_burstSound c _ .collect, fun _ => ⟨rfl, rfl, rfl⟩, hunknown, fun _ => rfl, Nat.zero_le _, nofun,
      nofun, fun _ => .inr ⟨rfl, rfl⟩, rfl⟩

/-- A cycle, whatever its inputs (R170–R172). -/
theorem Decoder.turn_check {c : Cfg} {r : Decoder} (h : r.check c = none) (p : Ports) :
    (r.turn c p).check c = none := by
  have hfit : c.fitsDur (bitField p.in_word 0 c.DUR_W) = true := Cfg.fitsDur_iff.2 (bitField_lt ..)
  unfold Decoder.turn
  split
  · split
    · exact Decoder.endBurst_check h
    · exact Decoder.pulse_check h hfit _
  · exact Decoder.idle_check h

/-- A sound state takes any cycle without reset, and is sound after it. -/
theorem step_cycle_sound {s : State} {p : Ports} {rest : List Stimulus} (hs : s.pending = .cycle p :: rest)
    (hp : p.rst = false) (hsound : s.Sound) :
    ∃ t, step s = .next t ∧ t.Sound ∧ t.cfg = s.cfg ∧ t.pending = rest ∧ t.enc = s.enc.turn s.cfg p :=
  ⟨_, step_cycle hs hp hsound.1 hsound.2, ⟨Decoder.turn_check hsound.1 p, Encoder.turn_check hsound.2 p⟩, rfl, rfl, rfl⟩

/-- Settles O42: one such cycle drops the strobe, which leaves the encoder as it was for the next. -/
theorem elementHeldUntilTaken : Obligations.ElementHeldUntilTaken := by
  intro s ps rest hsound hne hquiet hs
  induction ps generalizing s with
  | nil => exact absurd rfl hne
  | cons p ps ih =>
    obtain ⟨hp, hnone⟩ := hquiet p List.mem_cons_self
    obtain ⟨u, hstep, hsound', -, hpending, henc⟩ := step_cycle_sound hs hp hsound
    rw [Encoder.turn_of_not_taken hnone] at henc
    rw [List.length_cons, Laws.run_succ _ hstep]
    cases ps with
    | nil => exact ⟨u, rfl, hpending, henc, fun c => henc ▸ rfl⟩
    | cons q ps =>
      have hstate : u.enc.e_state = s.enc.e_state := by rw [henc, Encoder.idle_e_state]
      obtain ⟨t, hrun, hrest, henc', helement⟩ := ih u hsound' nofun
        (fun x hx => hstate ▸ hquiet x (List.mem_cons_of_mem _ hx)) hpending
      exact ⟨t, hrun, hrest, by rw [henc', henc]; rfl, fun c => (helement c).trans (henc ▸ rfl)⟩

/-! ## When an encoding ends (R249) -/

/-- A request for `Unknown` is taken. -/
def Encoder.TakesUnknown (p : Ports) (e : Encoder) : Prop :=
  (e.e_state = .idle ∧ p.req_valid = true) ∧ bitField p.req_word 32 2 = 0

/-- A request with a command that has a byte and the repeat count 0 is taken. -/
def Encoder.TakesBadRepeat (c : Cfg) (p : Ports) (e : Encoder) : Prop :=
  (e.e_state = .idle ∧ p.req_valid = true) ∧ bitField p.req_word 32 2 ≠ 0 ∧ bitField p.req_word 34 c.R_W = 0

/-- The last element is taken. -/
def Encoder.TakesLast (p : Ports) (e : Encoder) : Prop :=
  e.e_state = .bitL ∧ e.e_bit = 39 ∧ e.e_rep = 1 ∧ p.out_ready = true

theorem Command.ofCode_eq_unknown_iff {w : Nat} :
    Command.ofCode (BitVec.ofNat 2 (bitField w 32 2)) = .unknown ↔ bitField w 32 2 = 0 := by
  have hcode : ∀ b : BitVec 2, Command.ofCode b = .unknown ↔ b = 0 := by decide
  rw [hcode, ← BitVec.toNat_inj, toNat_ofNat_bitField]
  rfl

/-- A cycle with a request in `IDLE` gives the encoder the request. -/
theorem Encoder.turn_of_request {c : Cfg} {p : Ports} {e : Encoder} {pilot : PilotId} {roller : RollerId}
    {cmd : Command} {n : Nat} (hidle : e.e_state = .idle) (hvalid : p.req_valid = true)
    (hword : decodeRequest c p.req_word = .encReq pilot roller cmd n) :
    e.turn c p = e.request pilot roller cmd n := by
  cases hword
  rw [Encoder.turn, if_pos (Encoder.reqReady_iff.2 hidle), if_pos hvalid]

/-- A cycle with `out_ready` outside `IDLE` gives the encoder a handshake. -/
theorem Encoder.turn_of_handshake {c : Cfg} {p : Ports} {e : Encoder} (hrun : e.e_state ≠ .idle)
    (hready : p.out_ready = true) : e.turn c p = e.ack := by
  rw [Encoder.turn, if_neg (mt Encoder.reqReady_iff.1 hrun), if_pos hready]

/-- A cycle in which the encoder takes a handshake ends the encoding, or only drops the strobe. -/
theorem Encoder.turn_status_of_running {c : Cfg} {e : Encoder} (h : e.check c = none) (hrun : e.e_state ≠ .idle)
    (p : Ports) :
    (e.TakesLast p ∧ (e.turn c p).enc_done = true ∧ (e.turn c p).enc_code = .ok) ∨
    (¬ e.TakesLast p ∧ (e.turn c p).enc_done = false ∧ (e.turn c p).enc_code = e.enc_code) := by
  cases hready : p.out_ready with
  | false =>
    rw [Encoder.turn_of_not_taken (by rw [if_neg hrun, hready])]
    refine .inr ⟨?_, rfl, rfl⟩
    rintro ⟨-, -, -, hlast⟩
    simp [hready] at hlast
  | true =>
    rw [Encoder.turn_of_handshake hrun hready]
    by_cases hleft : e.elementsLeft = 1
    · obtain ⟨hst, hbit, hrep⟩ := (Encoder.elementsLeft_eq_one_iff h).1 hleft
      rw [Encoder.ack_of_elementsLeft_eq_one h hleft]
      exact .inl ⟨⟨hst, hbit, hrep, hready⟩, rfl, rfl⟩
    · refine .inr ⟨?_, Encoder.ack_status h hleft⟩
      rintro ⟨hst, hbit, hrep, -⟩
      exact hleft ((Encoder.elementsLeft_eq_one_iff h).2 ⟨hst, hbit, hrep⟩)

/-- A cycle in `IDLE` rejects a request for one of two reasons, or only drops the strobe. -/
theorem Encoder.turn_status_of_idle {e : Encoder} (hidle : e.e_state = .idle) (c : Cfg) (p : Ports) :
    (e.TakesUnknown p ∧ (e.turn c p).enc_done = true ∧ (e.turn c p).enc_code = .unknownCommand) ∨
    (e.TakesBadRepeat c p ∧ (e.turn c p).enc_done = true ∧ (e.turn c p).enc_code = .badRepeat) ∨
    (¬ e.TakesUnknown p ∧ ¬ e.TakesBadRepeat c p ∧
      (e.turn c p).enc_done = false ∧ (e.turn c p).enc_code = e.enc_code) := by
  cases hvalid : p.req_valid with
  | false =>
    have hnone : ¬ (e.e_state = .idle ∧ p.req_valid = true) := by simp [hvalid]
    rw [Encoder.turn_of_not_taken (by rw [if_pos hidle, hvalid])]
    exact .inr (.inr ⟨fun hunknown => hnone hunknown.1, fun hbad => hnone hbad.1, rfl, rfl⟩)
  | true =>
    rw [Encoder.turn_of_request (c := c) hidle hvalid rfl]
    by_cases hcmd : bitField p.req_word 32 2 = 0
    · rw [Command.ofCode_eq_unknown_iff.2 hcmd, Encoder.request_of_error hidle byteFromCommand_unknown]
      exact .inl ⟨⟨⟨hidle, hvalid⟩, hcmd⟩, rfl, rfl⟩
    · obtain ⟨cb, hcb⟩ := exists_byteFromCommand (mt Command.ofCode_eq_unknown_iff.1 hcmd)
      by_cases hrep : bitField p.req_word 34 c.R_W = 0
      · rw [hrep, Encoder.request_zero hidle hcb]
        exact .inr (.inl ⟨⟨⟨hidle, hvalid⟩, hcmd, hrep⟩, rfl, rfl⟩)
      · rw [Encoder.request_of_ok hidle hcb hrep]
        exact .inr (.inr ⟨fun hunknown => hcmd hunknown.2, fun hbad => hrep hbad.2.2, rfl, rfl⟩)

/-- Settles O43: in `IDLE` only the two rejections write the status registers, elsewhere only the last handshake. -/
theorem encoderStatusOnlyAtEndings : Obligations.EncoderStatusOnlyAtEndings := by
  intro s t p hedge
  refine ⟨fun hp => ?_, fun hp => ?_⟩
  · rw [clockEdge_reset hp] at hedge
    cases hedge
    exact ⟨rfl, rfl⟩
  · obtain ⟨-, hcheck, rfl⟩ := (clockEdge_eq_next hp).1 hedge
    show (s.enc.TakesUnknown p → _) ∧ (s.enc.TakesBadRepeat s.cfg p → _) ∧ (s.enc.TakesLast p → _) ∧
      (_ ↔ s.enc.TakesUnknown p ∨ s.enc.TakesBadRepeat s.cfg p ∨ s.enc.TakesLast p) ∧
      (¬ (s.enc.TakesUnknown p ∨ s.enc.TakesBadRepeat s.cfg p ∨ s.enc.TakesLast p) → _)
    by_cases hidle : s.enc.e_state = .idle
    · have hnotlast : ¬ s.enc.TakesLast p := fun hlast => nomatch hidle.symm.trans hlast.1
      rcases Encoder.turn_status_of_idle hidle s.cfg p with ⟨htakes, hdone, hcode⟩ | ⟨htakes, hdone, hcode⟩ |
          ⟨hnotunknown, hnotbad, hdone, hcode⟩
      · have hnotbad : ¬ s.enc.TakesBadRepeat s.cfg p := fun hbad => hbad.2.1 htakes.2
        simp [hdone, hcode, htakes, hnotbad, hnotlast]
      · have hnotunknown : ¬ s.enc.TakesUnknown p := fun hunknown => htakes.2.1 hunknown.2
        simp [hdone, hcode, htakes, hnotunknown, hnotlast]
      · simp [hdone, hcode, hnotunknown, hnotbad, hnotlast]
    · have hnotunknown : ¬ s.enc.TakesUnknown p := fun hunknown => hidle hunknown.1.1
      have hnotbad : ¬ s.enc.TakesBadRepeat s.cfg p := fun hbad => hidle hbad.1.1
      rcases Encoder.turn_status_of_running hcheck hidle p with ⟨htakes, hdone, hcode⟩ | ⟨hnotlast, hdone, hcode⟩
      · simp [hdone, hcode, htakes, hnotunknown, hnotbad]
      · simp [hdone, hcode, hnotunknown, hnotbad, hnotlast]

/-! ## The cycles of an encoding (R256) -/

/-- With `out_ready` held 1, each cycle takes a handshake while elements are left, whatever the decoder is given. -/
theorem run_handshakes {s : State} {ps : List Ports} {rest : List Stimulus} (hsound : s.Sound)
    (hready : ∀ p ∈ ps, p.rst = false ∧ p.out_ready = true) (hleft : ps.length ≤ s.enc.elementsLeft)
    (hs : s.pending = ps.map .cycle ++ rest) :
    ∃ t, Sys2Proof.core.run ps.length s = .next t ∧ t.pending = rest ∧ t.enc = Encoder.ack^[ps.length] s.enc := by
  induction ps generalizing s with
  | nil => exact ⟨s, rfl, hs, rfl⟩
  | cons p ps ih =>
    obtain ⟨hp, hout⟩ := hready p List.mem_cons_self
    rw [List.length_cons] at hleft
    have hrun := (Encoder.elementsLeft_pos_iff hsound.2).1 (by omega)
    obtain ⟨u, hstep, hsound', -, hpending, henc⟩ := step_cycle_sound hs hp hsound
    rw [Encoder.turn_of_handshake hrun hout] at henc
    have hleft' : ps.length ≤ u.enc.elementsLeft := by
      rw [henc, Encoder.elementsLeft_ack hsound.2]
      omega
    rw [List.length_cons, Laws.run_succ _ hstep, Function.iterate_succ_apply, ← henc]
    exact ih hsound' (fun x hx => hready x (List.mem_cons_of_mem _ hx)) hleft' hpending

/-- Settles O46: the request leaves `83 * n - 1` elements to take, and each cycle takes one. -/
theorem encodingTakes83nCycles : Obligations.EncodingTakes83nCycles := by
  intro s q ps rest p r cmd cb n hsound hidle hrst hvalid hword hcb hn hlen hready hs
  obtain ⟨u, hstep, hsound', -, hpending, henc⟩ := step_cycle_sound hs hrst hsound
  rw [Encoder.turn_of_request hidle hvalid hword, Encoder.request_of_ok hidle hcb hn] at henc
  have hleft : u.enc.elementsLeft = ps.length := by
    rw [henc, Encoder.elementsLeft_start hn, hlen]
  have hrun : u.enc.e_state ≠ .idle := by
    rw [henc]
    nofun
  obtain ⟨t, ht, hrest, henc'⟩ := run_handshakes hsound' hready hleft.ge hpending
  have hcycles : 83 * n = ps.length + 1 := by omega
  refine ⟨t, by rw [hcycles, Laws.run_succ _ hstep, ht], hrest, ?_⟩
  rw [henc', ← hleft, Encoder.iterate_ack_elementsLeft hsound'.2 hrun, henc]
  rfl

end Sys2Proof.Machine

/-! PROOFS. The family `60_exceptions`: where a step faults and that no run from reset leads there (R314), and both
agents in one cycle (R303). -/

namespace Sys2Proof.Machine

/-! ## Where a cycle, and a step, faults (R314) -/

/-- A cycle without reset faults for the first reason that either agent's check names, the decoder's before the
encoder's. -/
theorem clockEdge_of_check {p : Ports} {s : State} {why : Fault} (hp : p.rst = false) (h : s.check = some why) :
    clockEdge p s = .fault why := by
  rw [clockEdge_of_rst_eq_false hp, decoderTurn_eq]
  cases hdec : s.dec.check s.cfg with
  | some why' =>
    obtain rfl : why' = why := by simpa [State.check, hdec] using h
    rw [onDecoder_eq_fault.2 hdec, andThen]
  | none =>
    have henc : s.enc.check s.cfg = some why := by simpa [State.check, hdec] using h
    rw [onDecoder_eq_next.2 ⟨hdec, rfl⟩, andThen_next, encoderTurn_eq]
    exact onEncoder_eq_fault.2 henc

/-- A state that is not sound has a reason to fault. -/
theorem State.exists_check_of_not_sound {s : State} (h : ¬ s.Sound) : ∃ why, s.check = some why :=
  Option.ne_none_iff_exists'.1 (mt State.check_eq_none.1 h)

/-- Settles O8: a cycle without reset and an evaluation both check both agents first. -/
theorem unreachedStatesFault : Obligations.UnreachedStatesFault := by
  intro s hunsound hnoreset
  obtain ⟨why, hwhy⟩ := State.exists_check_of_not_sound hunsound
  refine ⟨why, ?_⟩
  unfold step
  split
  next => exact clockEdge_of_check rfl hwhy
  next x rest hs =>
    cases x with
    | cycle p => exact clockEdge_of_check (hnoreset p rest hs) hwhy
    | evaluate f => exact (exec_call f _).trans (onFunction_eq_fault.2 hwhy)

/-! ## The values that are never written (93 U3–U7, U9) -/

theorem Decoder.exists_check_of_neverWritten {r : Decoder}
    (h : r.d_err = .code3 ∨ 81 < r.d_cnt.toNat ∨ 39 < r.d_eidx.toNat ∨
      r.res_kind = .code5 ∨ r.res_kind = .code6 ∨ r.res_kind = .code7) (c : Cfg) :
    ∃ why, r.check c = some why := by
  refine Option.ne_none_iff_exists'.1 fun hcheck => ?_
  obtain ⟨herr, hcnt, heidx, ⟨h5, h6, h7⟩, -⟩ := Decoder.check_eq_none.1 hcheck
  rcases h with h | h | h | h | h | h
  · exact herr h
  · exact absurd hcnt (Nat.not_le.2 h)
  · exact absurd heidx (Nat.not_le.2 h)
  · exact h5 h
  · exact h6 h
  · exact h7 h

theorem Encoder.exists_check_of_neverWritten {e : Encoder}
    (h : e.e_state = .code6 ∨ e.e_state = .code7 ∨ 39 < e.e_bit.toNat) (c : Cfg) : ∃ why, e.check c = some why := by
  refine Option.ne_none_iff_exists'.1 fun hcheck => ?_
  obtain ⟨⟨h6, h7⟩, hbit, -⟩ := Encoder.check_eq_none.1 hcheck
  rcases h with h | h | h
  · exact h6 h
  · exact h7 h
  · exact absurd hbit (Nat.not_le.2 h)

/-- Settles O10: the agent that holds such a value fails its check, and with it the whole state. -/
theorem neverWrittenValuesFault : Obligations.NeverWrittenValuesFault := by
  intro s lv d p r cmd n h l b
  refine ⟨fun hdec => ?_, fun henc => ?_, fun heither => ?_⟩
  · obtain ⟨why, hwhy⟩ := Decoder.exists_check_of_neverWritten hdec s.cfg
    exact ⟨⟨why, onDecoder_eq_fault.2 hwhy⟩, why, onDecoder_eq_fault.2 hwhy⟩
  · obtain ⟨why, hwhy⟩ := Encoder.exists_check_of_neverWritten henc s.cfg
    exact ⟨⟨why, onEncoder_eq_fault.2 hwhy⟩, why, onEncoder_eq_fault.2 hwhy⟩
  · have hunsound : ¬ s.Sound := fun ⟨hdec, henc⟩ => by
      rcases heither with hbad | hbad
      · obtain ⟨why, hwhy⟩ := Decoder.exists_check_of_neverWritten hbad s.cfg
        exact nomatch hdec.symm.trans hwhy
      · obtain ⟨why, hwhy⟩ := Encoder.exists_check_of_neverWritten hbad s.cfg
        exact nomatch henc.symm.trans hwhy
    obtain ⟨why, hwhy⟩ := State.exists_check_of_not_sound hunsound
    have hfunction (out : FnOut) : ∃ why, onFunction out s = .fault why := ⟨why, onFunction_eq_fault.2 hwhy⟩
    exact ⟨hfunction _, hfunction _, hfunction _, hfunction _, why, clockEdge_of_check rfl hwhy⟩

/-! ## Both agents in one cycle (R303) -/

/-- The token offered in a cycle is executed as the decoder's turn. -/
theorem exec_decodeToken {s : State} {p : Ports} (hcheck : s.dec.check s.cfg = none) (hvalid : p.in_valid = true) :
    exec (decodeToken s.cfg p.in_word) s = .next { s with dec := s.dec.turn s.cfg p } := by
  have hturn : decoderTurn p s = exec (decodeToken s.cfg p.in_word) s := if_pos hvalid
  rw [← hturn, decoderTurn_eq]
  exact onDecoder_eq_next.2 ⟨hcheck, rfl⟩

/-- Settles O12: the step gives each agent its turn, which is what `exec` makes of the transaction taken. -/
theorem bothAgentsActInOneCycle : Obligations.BothAgentsActInOneCycle := by
  intro s p rest ⟨hdec, henc⟩ hp hs
  refine ⟨_, _, step_cycle hs hp hdec henc, exec_decodeToken hdec, (Decoder.turn_of_no_token · s.dec),
    fun hidle hvalid => ?_, fun hrun hready => ?_, Encoder.turn_of_not_taken⟩
  · rw [Encoder.turn_of_request hidle hvalid rfl]
    exact exec_encReq henc ..
  · rw [Encoder.turn_of_handshake hrun hready]
    exact exec_encAck henc

/-! ## No fault from reset (R48, R314) -/

theorem Decoder.reset_check (c : Cfg) : Decoder.reset.check c = none := by
  have hunknown : Command.unknown = commandFromByte 0 := by decide
  exact Decoder.check_eq_none.2 ⟨nofun, Nat.zero_le _, Nat.zero_le _, ⟨nofun, nofun, nofun⟩,
    Decoder.clearBurst_burstSound c Decoder.reset .collect, fun _ => ⟨rfl, rfl, rfl⟩, hunknown, fun _ => rfl,
    Nat.zero_le _, fun _ => rfl, nofun, nofun, rfl⟩

theorem Encoder.reset_check (c : Cfg) : Encoder.reset.check c = none :=
  Encoder.check_eq_none.2 ⟨⟨nofun, nofun⟩, Nat.zero_le _, Cfg.fitsRep_iff.2 (Nat.two_pow_pos _),
    fun _ => ⟨rfl, rfl, nofun⟩, fun _ => rfl, nofun, fun h => absurd rfl h, fun h => absurd rfl h, nofun⟩

/-- Every cycle goes on from a sound state to a sound one. -/
theorem clockEdge_of_sound {s : State} (h : s.Sound) (p : Ports) : ∃ t, clockEdge p s = .next t ∧ t.Sound := by
  cases hp : p.rst with
  | true => exact ⟨_, clockEdge_reset hp, Decoder.reset_check _, Encoder.reset_check _⟩
  | false =>
    exact ⟨_, (clockEdge_eq_next hp).2 ⟨h.1, h.2, rfl⟩, Decoder.turn_check h.1 p, Encoder.turn_check h.2 p⟩

/-- Every step goes on from a sound state to a sound one, whatever the inputs. -/
theorem step_of_sound {s : State} (h : s.Sound) : ∃ t, step s = .next t ∧ t.Sound := by
  unfold step
  split
  next => exact clockEdge_of_sound h Ports.idle
  next x rest hs =>
    have h' : ({ s with pending := rest } : State).Sound := h
    cases x with
    | cycle p => exact clockEdge_of_sound h' p
    | evaluate f => exact ⟨_, (exec_call f _).trans (onFunction_of_sound h' _), h⟩

/-- So does every run. -/
theorem safeRun_of_sound {s : State} (h : s.Sound) (k : Nat) : SafeRun k s := by
  induction k generalizing s with
  | zero => exact ⟨s, rfl⟩
  | succ k ih =>
    obtain ⟨t, hstep, ht⟩ := step_of_sound h
    rw [SafeRun, Laws.run_succ k hstep]
    exact ih ht

/-- Settles O6. -/
theorem noFaultFromReset : Obligations.NoFaultFromReset :=
  fun c k _ => safeRun_of_sound ⟨Decoder.reset_check c, Encoder.reset_check c⟩ k

end Sys2Proof.Machine

/-! PROOFS. The family `60_exceptions`: the registers of every sound decoder are reached from reset (R48, R314). A burst
is taken back pulse by pulse, each time to a sound burst of one pulse less; a result is that of some full burst, or of
one that its END cut short. -/

namespace Sys2Proof.Machine

/-! ## Where the inputs of several cycles lead the decoder -/

/-- The registers after one cycle without reset for each of these inputs. -/
def Decoder.after (c : Cfg) (ps : List Ports) (r : Decoder) : Decoder := ps.foldl (fun r p => r.turn c p) r

/-- Some inputs lead the decoder from reset to these registers. -/
def Decoder.Reached (c : Cfg) (r : Decoder) : Prop := ∃ ps, Decoder.reset.after c ps = r

theorem Decoder.reached_reset (c : Cfg) : Decoder.reset.Reached c := ⟨[], rfl⟩

theorem Decoder.Reached.turn {c : Cfg} {r : Decoder} (h : r.Reached c) (p : Ports) : (r.turn c p).Reached c := by
  obtain ⟨ps, rfl⟩ := h
  exact ⟨ps ++ [p], List.foldl_concat ..⟩

theorem Decoder.Reached.idle {c : Cfg} {r : Decoder} (h : r.Reached c) : r.idle.Reached c := h.turn Ports.idle

theorem Decoder.Reached.pulse {c : Cfg} {r : Decoder} {d : Nat} (h : r.Reached c) (hfit : c.fitsDur d = true)
    (lv : Level) : (r.pulse c lv d).Reached c := by
  have hword := decodeToken_encodePulse lv (Cfg.fitsDur_iff.1 hfit)
  have hturn := h.turn { Ports.idle with in_valid := true, in_word := encodePulse c lv d }
  rwa [Decoder.turn_of_decPulse rfl hword] at hturn

theorem Decoder.Reached.endBurst {c : Cfg} {r : Decoder} (h : r.Reached c) : r.endBurst.Reached c := by
  have hturn := h.turn { Ports.idle with in_valid := true, in_word := encodeEnd c }
  rwa [Decoder.turn_of_decEnd rfl (isEnd_encodeEnd c)] at hturn

/-! ## Which durations and accumulators a burst can have had -/

/-- Where some pair passes a test, some high duration can be the first half of one. -/
theorem exists_high {c : Cfg} {test : PairTest} (hs : SeesWindows c test) (h : somePair c test = true) :
    ∃ hi, c.fitsDur hi = true ∧ someLow c test hi = true := by
  obtain ⟨hi, l, hhi, hl, htest⟩ := (somePair_iff hs).1 h
  exact ⟨hi, hhi, (someLow_iff hs hi).2 ⟨l, hl, htest⟩⟩

/-- The bit shifted in last is one that some pair has. -/
theorem somePair_of_carries {c : Cfg} {n : Nat} {acc : Code40} (h : carries c n acc = true) (hn : 0 < n) :
    somePair c (isBitPair c (.ofBool (acc.getLsbD 0))) = true := by
  obtain ⟨-, h0, h1⟩ := carries_iff.1 h
  have hlow : (acc.getLsbD 0).toNat = acc.toNat % 2 := by
    rw [BitVec.getLsbD, Nat.toNat_testBit, Nat.pow_zero, Nat.div_one]
  obtain ⟨m, rfl⟩ := Nat.exists_eq_succ_of_ne_zero hn.ne'
  have hpow : 2 ^ (m + 1) = 2 * 2 ^ m := Nat.pow_succ'
  have hpos := Nat.two_pow_pos m
  cases hbit : acc.getLsbD 0 with rw [hbit] at hlow
  | false =>
    rw [Bool.toNat_false] at hlow
    exact h0.resolve_right (by omega)
  | true =>
    rw [Bool.toNat_true] at hlow
    exact h1.resolve_right (by omega)

/-- Before the last bit was shifted in the accumulator held the others (R166). -/
theorem carries_ushiftRight {c : Cfg} {n : Nat} {acc : Code40} (h : carries c (n + 1) acc = true) :
    carries c n (acc >>> 1) = true := by
  obtain ⟨hlt, h0, h1⟩ := carries_iff.1 h
  have hpow : 2 ^ (n + 1) = 2 * 2 ^ n := Nat.pow_succ'
  have hpos := Nat.two_pow_pos n
  have hval : (acc >>> 1).toNat = acc.toNat / 2 := by rw [BitVec.toNat_ushiftRight, Nat.shiftRight_eq_div_pow]
  rw [carries_iff, hval]
  exact ⟨by omega, h0.imp_right fun hones => by omega, h1.imp_right fun hzero => by omega⟩

/-- Any number of valid bit pairs can come in a row, if one can. -/
theorem exists_carries {c : Cfg} {n : Nat} (hn : n ≤ 40)
    (h : n = 0 ∨ somePair c (isBitPair c .bit0) = true ∨ somePair c (isBitPair c .bit1) = true) :
    ∃ acc, carries c n acc = true := by
  have hpos := Nat.two_pow_pos n
  rcases h with rfl | h0 | h1
  · exact ⟨0, carries_zero c⟩
  · exact ⟨0, carries_iff.2 ⟨hpos, .inl h0, .inr rfl⟩⟩
  · have hfit : 2 ^ n ≤ 2 ^ 40 := Nat.pow_le_pow_right Nat.two_pos hn
    have hval : (BitVec.ofNat 40 (2 ^ n - 1)).toNat = 2 ^ n - 1 := by
      rw [BitVec.toNat_ofNat, Nat.mod_eq_of_lt (by omega)]
    exact ⟨BitVec.ofNat 40 (2 ^ n - 1), carries_iff.2 ⟨by omega, .inr hval, .inl h1⟩⟩

/-! ## The pulse before (R163–R166) -/

/-- The registers one pulse earlier, when the pair registers held these values and no level had been wrong. -/
def Decoder.rewind (hi : Nat) (acc : Code40) (err : DErr) (eidx : BitVec 6) (r : Decoder) : Decoder :=
  { r with d_cnt := r.d_cnt - 1, d_hi := hi, d_acc := acc, d_err := err, d_eidx := eidx, d_lvl := false }

/-- Some burst of one pulse less, with the same results before it, is advanced to these registers by one pulse. -/
def Decoder.HasPrevious (c : Cfg) (r : Decoder) : Prop :=
  ∃ (r' : Decoder) (lv : Level) (d : Nat), c.fitsDur d = true ∧ r'.Collected c ∧ r'.d_cnt = r.d_cnt - 1 ∧
    r'.clearBurst = r.clearBurst ∧ r'.advance c lv d = r

theorem Decoder.rewind_d_cnt_toNat {r : Decoder} (hpos : 0 < r.d_cnt.toNat) (hi : Nat) (acc : Code40) (err : DErr)
    (eidx : BitVec 6) : (r.rewind hi acc err eidx).d_cnt.toNat = r.d_cnt.toNat - 1 := by
  have hbefore : (r.d_cnt - 1).toNat = r.d_cnt.toNat - 1 := by bv_omega
  exact hbefore

/-- The level of a pulse can make any violation of it (R168). -/
theorem Decoder.exists_lvlAfter {r : Decoder} (h : r.d_lvl = false) (b : Bool) : ∃ lv, r.lvlAfter lv = b := by
  simp only [Decoder.lvlAfter, h, Bool.false_or]
  cases expectedLevel r.d_cnt <;> cases b
  · exact ⟨.low, rfl⟩
  · exact ⟨.high, rfl⟩
  · exact ⟨.high, rfl⟩
  · exact ⟨.low, rfl⟩

/-- It is enough that judging the pulse makes the pair registers what they are. -/
theorem Decoder.hasPrevious_of_judge {c : Cfg} {r : Decoder} {hi d : Nat} {acc : Code40} {err : DErr} {eidx : BitVec 6}
    (hquiet : r.res_valid = false) (hfit : c.fitsDur d = true) (h : (r.rewind hi acc err eidx).Collected c)
    (hjudge : (r.rewind hi acc err eidx).judge c d = r.rewind r.d_hi r.d_acc r.d_err r.d_eidx) : r.HasPrevious c := by
  obtain ⟨lv, hlv⟩ := Decoder.exists_lvlAfter (r := r.rewind hi acc err eidx) rfl r.d_lvl
  have hcnt : (r.rewind hi acc err eidx).d_cnt + 1 = r.d_cnt := BitVec.sub_add_cancel ..
  refine ⟨_, lv, d, hfit, h, rfl, rfl, ?_⟩
  rw [Decoder.advance, hjudge, hlv, hcnt, ← hquiet]
  rfl

/-- Before this high half was latched, `d_hi` can have held that of the pair before, of the result that pair had. -/
theorem Decoder.exists_rewind_collected {c : Cfg} {r : Decoder} (h : r.Collected c) (hodd : r.d_cnt.toNat % 2 = 1)
    (h3 : 3 ≤ r.d_cnt.toNat) : ∃ hi, (r.rewind hi r.d_acc r.d_err r.d_eidx).Collected c := by
  have hcnt (hi : Nat) := Decoder.rewind_d_cnt_toNat (show 0 < r.d_cnt.toNat by omega) hi r.d_acc r.d_err r.d_eidx
  cases herr : r.d_err with rw [herr] at hcnt
  | code3 => exact absurd herr h.err
  | none =>
    obtain ⟨hzero, hcarries, hsync, -⟩ := Decoder.cleanBurst_iff.1 (h.clean herr)
    have hpairs : (r.d_cnt.toNat - 2) / 2 = (r.d_cnt.toNat - 1 - 2) / 2 := by omega
    rw [hpairs] at hcarries
    obtain ⟨hi, hfit, htwo, hlater⟩ : ∃ hi, c.fitsDur hi = true ∧
        (r.d_cnt.toNat - 1 = 2 → someLow c (isSyncPair c) hi = true) ∧
        (2 < r.d_cnt.toNat - 1 → someLow c (isBitPair c (.ofBool (r.d_acc.getLsbD 0))) hi = true) := by
      by_cases htwo : r.d_cnt.toNat - 1 = 2
      · obtain ⟨hi, hfit, hlow⟩ := exists_high (seesWindows_sync c) (hsync (by omega))
        exact ⟨hi, hfit, fun _ => hlow, fun hlater => by omega⟩
      · obtain ⟨hi, hfit, hlow⟩ := exists_high (seesWindows_bit c _) (somePair_of_carries hcarries (by omega))
        exact ⟨hi, hfit, fun h2 => absurd h2 htwo, fun _ => hlow⟩
    refine ⟨hi, Decoder.collected_of_clean rfl hfit ?_⟩
    rw [Decoder.cleanBurst_iff, Decoder.cnt_eq_two_iff, hcnt]
    exact ⟨hzero, hcarries, fun _ => hsync (by omega), htwo, fun hlate _ => hlater hlate⟩
  | sync =>
    obtain ⟨hzero, hacc, -, hpair, -⟩ := Decoder.syncFailed_iff.1 (h.sync herr)
    obtain ⟨hi, hfit, hlow⟩ := exists_high (seesWindows_noSync c) hpair
    refine ⟨hi, Decoder.collected_of_syncFailed rfl hfit ?_⟩
    rw [Decoder.syncFailed_iff, hcnt]
    exact ⟨hzero, hacc, by omega, hpair, fun _ => hlow⟩
  | bit =>
    obtain ⟨h4, hcarries, hsync, hpair, -⟩ := Decoder.bitFailed_iff.1 (h.bit herr)
    obtain ⟨hi, hfit, hlow⟩ := exists_high (seesWindows_bit c _) hpair
    have h4' : 2 * r.d_eidx.toNat + 4 ≤ r.d_cnt.toNat - 1 := by omega
    refine ⟨hi, Decoder.collected_of_bitFailed rfl hfit h.eidx ?_⟩
    rw [Decoder.bitFailed_iff, hcnt]
    exact ⟨h4', hcarries, hsync, hpair, fun _ => hlow⟩

/-- The pulse before was the high half of a pair, which latched its duration (R170). -/
theorem Decoder.hasPrevious_of_odd {c : Cfg} {r : Decoder} (h : r.Collected c) (hquiet : r.res_valid = false)
    (hodd : r.d_cnt.toNat % 2 = 1) (h3 : 3 ≤ r.d_cnt.toNat) : r.HasPrevious c := by
  obtain ⟨hi, hbefore⟩ := Decoder.exists_rewind_collected h hodd h3
  have hcnt := Decoder.rewind_d_cnt_toNat (show 0 < r.d_cnt.toNat by omega) hi r.d_acc r.d_err r.d_eidx
  exact Decoder.hasPrevious_of_judge hquiet h.hi hbefore (Decoder.judge_of_even (by omega) c r.d_hi)

/-- The pulse before was the low half of the sync pair (R164). -/
theorem Decoder.hasPrevious_of_two {c : Cfg} {r : Decoder} (h : r.Collected c) (hquiet : r.res_valid = false)
    (htwo : r.d_cnt = 2) : r.HasPrevious c := by
  have hcnt2 := Decoder.cnt_eq_two_iff.1 htwo
  have hone : (r.rewind r.d_hi r.d_acc .none 0).d_cnt = 1 := by
    show r.d_cnt - 1 = 1
    rw [htwo]
    rfl
  have hbefore (hempty : carries c 0 r.d_acc = true) : (r.rewind r.d_hi r.d_acc .none 0).Collected c := by
    refine Decoder.collected_of_clean rfl h.hi ?_
    rw [Decoder.cleanBurst_iff, hone]
    exact ⟨rfl, hempty, nofun, nofun, nofun⟩
  have hjudge (d : Nat) : (r.rewind r.d_hi r.d_acc .none 0).judge c d =
      r.rewind r.d_hi r.d_acc (if classifySync c r.d_hi d then .none else .sync) 0 := Decoder.judge_of_one hone c d
  cases herr : r.d_err with
  | code3 => exact absurd herr h.err
  | none =>
    obtain ⟨hzero, hcarries, -, hlow, -⟩ := Decoder.cleanBurst_iff.1 (h.clean herr)
    obtain ⟨d, hfit, hsync⟩ := (someLow_iff (seesWindows_sync c) _).1 (hlow htwo)
    rw [hcnt2] at hcarries
    refine Decoder.hasPrevious_of_judge hquiet hfit (hbefore hcarries) ((hjudge d).trans ?_)
    rw [if_pos (show classifySync c r.d_hi d = true from hsync), herr, hzero]
  | sync =>
    obtain ⟨hzero, hacc, -, -, hlow⟩ := Decoder.syncFailed_iff.1 (h.sync herr)
    obtain ⟨d, hfit, hpair⟩ := (someLow_iff (seesWindows_noSync c) _).1 (hlow htwo)
    have hfailed : ¬ classifySync c r.d_hi d = true := by simpa [isNoSyncPair] using hpair
    refine Decoder.hasPrevious_of_judge hquiet hfit (hbefore (hacc ▸ carries_zero c)) ((hjudge d).trans ?_)
    rw [if_neg hfailed, herr, hzero]
  | bit =>
    obtain ⟨h4, -⟩ := Decoder.bitFailed_iff.1 (h.bit herr)
    omega

/-- The pulse before was the low half of a pair after the one whose error is latched: it changed nothing (R163). -/
theorem Decoder.hasPrevious_of_error {c : Cfg} {r : Decoder} (hquiet : r.res_valid = false)
    (heven : r.d_cnt.toNat % 2 = 0) (h4 : 4 ≤ r.d_cnt.toNat) (herr : r.d_err ≠ .none)
    (hbefore : (r.rewind r.d_hi r.d_acc r.d_err r.d_eidx).Collected c) : r.HasPrevious c := by
  have hcnt := Decoder.rewind_d_cnt_toNat (show 0 < r.d_cnt.toNat by omega) r.d_hi r.d_acc r.d_err r.d_eidx
  have hfit : c.fitsDur 0 = true := Cfg.fitsDur_iff.2 (Nat.two_pow_pos _)
  have hjudge := Decoder.judge_of_error (r := r.rewind r.d_hi r.d_acc r.d_err r.d_eidx) (by omega) (by omega) herr c 0
  exact Decoder.hasPrevious_of_judge hquiet hfit hbefore hjudge

/-- The pulse before was the low half of a bit pair, and no error had been latched: the pair was the first to fail, or
its bit was shifted in (R166). -/
theorem Decoder.hasPrevious_of_judged {c : Cfg} {r : Decoder} {acc : Code40} {v : BitValue}
    (hhi : c.fitsDur r.d_hi = true) (hquiet : r.res_valid = false) (heven : r.d_cnt.toNat % 2 = 0)
    (h4 : 4 ≤ r.d_cnt.toNat) (hcarries : carries c ((r.d_cnt.toNat - 4) / 2) acc = true)
    (hsync : somePair c (isSyncPair c) = true) (hlow : someLow c (isBitPair c v) r.d_hi = true)
    (htake : (r.rewind r.d_hi acc .none 0).takeBit v = r.rewind r.d_hi r.d_acc r.d_err r.d_eidx) :
    r.HasPrevious c := by
  obtain ⟨d, hfit, hpair⟩ := (someLow_iff (seesWindows_bit c v) _).1 hlow
  replace hpair : classifyBit c r.d_hi d = v := eq_of_beq hpair
  have hcnt := Decoder.rewind_d_cnt_toNat (show 0 < r.d_cnt.toNat by omega) r.d_hi acc .none 0
  have hpairs : (r.d_cnt.toNat - 1 - 2) / 2 = (r.d_cnt.toNat - 4) / 2 := by omega
  have hbefore : (r.rewind r.d_hi acc .none 0).Collected c := by
    refine Decoder.collected_of_clean rfl hhi ?_
    rw [Decoder.cleanBurst_iff, Decoder.cnt_eq_two_iff, hcnt, hpairs]
    exact ⟨rfl, hcarries, fun _ => hsync, fun htwo => by omega, fun _ hodd => by omega⟩
  have hjudge := Decoder.judge_of_odd (r := r.rewind r.d_hi acc .none 0) (by omega) (by omega) c d
  refine Decoder.hasPrevious_of_judge hquiet hfit hbefore (hjudge.trans ((if_pos rfl).trans ?_))
  rw [← htake, ← hpair]
  rfl

/-- The pulse before was the low half of a bit pair. -/
theorem Decoder.hasPrevious_of_even {c : Cfg} {r : Decoder} (h : r.Collected c) (hquiet : r.res_valid = false)
    (heven : r.d_cnt.toNat % 2 = 0) (h4 : 4 ≤ r.d_cnt.toNat) (h82 : r.d_cnt.toNat ≤ 82) : r.HasPrevious c := by
  have hcnt := Decoder.rewind_d_cnt_toNat (show 0 < r.d_cnt.toNat by omega) r.d_hi r.d_acc r.d_err r.d_eidx
  cases herr : r.d_err with
  | code3 => exact absurd herr h.err
  | none =>
    obtain ⟨hzero, hcarries, hsync, -, hlow⟩ := Decoder.cleanBurst_iff.1 (h.clean herr)
    have hpairs : (r.d_cnt.toNat - 2) / 2 = (r.d_cnt.toNat - 4) / 2 + 1 := by omega
    rw [hpairs] at hcarries
    refine Decoder.hasPrevious_of_judged h.hi hquiet heven h4 (carries_ushiftRight hcarries) (hsync (by omega))
      (hlow (by omega) heven) ?_
    rw [Decoder.takeBit_ofBool, herr, hzero]
    simp only [Decoder.rewind, shiftIn_ushiftRight r.d_acc 0, BitVec.ushiftRight_zero]
  | sync =>
    obtain ⟨hzero, hacc, -, hpair, -⟩ := Decoder.syncFailed_iff.1 (h.sync herr)
    refine Decoder.hasPrevious_of_error hquiet heven h4 (herr ▸ nofun) ?_
    refine Decoder.collected_of_syncFailed herr h.hi ?_
    rw [Decoder.syncFailed_iff, Decoder.cnt_eq_two_iff, hcnt]
    exact ⟨hzero, hacc, by omega, hpair, fun htwo => by omega⟩
  | bit =>
    obtain ⟨hfailed, hcarries, hsync, hpair, hlow⟩ := Decoder.bitFailed_iff.1 (h.bit herr)
    by_cases hjust : r.d_cnt.toNat = 2 * r.d_eidx.toNat + 4
    · have hpairs : (r.d_cnt.toNat - 4) / 2 = r.d_eidx.toNat := by omega
      have hidx : bitIndexOf (r.d_cnt - 1) = r.d_eidx := by
        have hbefore : (r.d_cnt - 1).toNat = r.d_cnt.toNat - 1 := hcnt
        rw [bitIndexOf_eq (by omega) (by omega), hbefore]
        apply BitVec.eq_of_toNat_eq
        rw [BitVec.toNat_ofNat, Nat.mod_eq_of_lt (by omega)]
        omega
      refine Decoder.hasPrevious_of_judged h.hi hquiet heven h4 (hpairs ▸ hcarries) hsync (hlow hjust) ?_
      simp only [Decoder.takeBit, Decoder.rewind, hidx, herr]
    · have hfailed' : 2 * r.d_eidx.toNat + 4 ≤ r.d_cnt.toNat - 1 := by omega
      refine Decoder.hasPrevious_of_error hquiet heven h4 (herr ▸ nofun) ?_
      refine Decoder.collected_of_bitFailed herr h.hi h.eidx ?_
      rw [Decoder.bitFailed_iff, hcnt]
      exact ⟨hfailed', hcarries, hsync, hpair, fun hlast => by omega⟩

/-- From the second pulse on there was one before. -/
theorem Decoder.hasPrevious {c : Cfg} {r : Decoder} (h : r.Collected c) (hquiet : r.res_valid = false)
    (h2 : 2 ≤ r.d_cnt.toNat) (h82 : r.d_cnt.toNat ≤ 82) : r.HasPrevious c := by
  rcases Nat.mod_two_eq_zero_or_one r.d_cnt.toNat with heven | hodd
  · by_cases htwo : r.d_cnt = 2
    · exact Decoder.hasPrevious_of_two h hquiet htwo
    · have hlater := mt Decoder.cnt_eq_two_iff.2 htwo
      exact Decoder.hasPrevious_of_even h hquiet heven (by omega) h82
  · exact Decoder.hasPrevious_of_odd h hquiet hodd (by omega)

/-- No pair is completed by one pulse, so none can have failed (R163). -/
theorem Decoder.Collected.err_of_one {c : Cfg} {r : Decoder} (h : r.Collected c) (hone : r.d_cnt.toNat = 1) :
    r.d_err = .none := by
  cases herr : r.d_err with
  | none => rfl
  | sync =>
    obtain ⟨-, -, h2, -⟩ := Decoder.syncFailed_iff.1 (h.sync herr)
    omega
  | bit =>
    obtain ⟨h4, -⟩ := Decoder.bitFailed_iff.1 (h.bit herr)
    omega
  | code3 => exact absurd herr h.err

/-- After one pulse only its duration and its level are known (R170). -/
theorem Decoder.advance_of_first {c : Cfg} {r : Decoder} (h : r.Collected c) (hquiet : r.res_valid = false)
    (hone : r.d_cnt = 1) : ∃ lv, r.clearBurst.advance c lv r.d_hi = r := by
  have hcnt : r.d_cnt.toNat = 1 := congrArg BitVec.toNat hone
  obtain ⟨lv, hlv⟩ := Decoder.exists_lvlAfter (r := r.clearBurst) rfl r.d_lvl
  have herr := h.err_of_one hcnt
  obtain ⟨hzero, hcarries, -⟩ := Decoder.cleanBurst_iff.1 (h.clean herr)
  have hacc : r.d_acc = 0 := by
    rw [hcnt] at hcarries
    obtain ⟨hlt, -⟩ := carries_iff.1 hcarries
    exact BitVec.eq_of_toNat_eq (Nat.lt_one_iff.1 hlt)
  refine ⟨lv, ?_⟩
  rw [Decoder.advance, Decoder.judge_of_even rfl, hlv]
  obtain ⟨⟩ := r
  subst hone herr hzero hacc hquiet
  rfl

/-! ## Every burst is reached (R170) -/

theorem Decoder.Reached.advance {c : Cfg} {r : Decoder} {d : Nat} (h : r.Reached c) (hcollect : r.d_phase = .collect)
    (hcnt : r.d_cnt ≠ 81) (hfit : c.fitsDur d = true) (lv : Level) : (r.advance c lv d).Reached c :=
  Decoder.pulse_of_collect hcollect hcnt c lv d ▸ h.pulse hfit lv

/-- The registers of a burst of up to 81 pulses are reached from where the results before it are. -/
theorem Decoder.reached_of_collected {c : Cfg} {r : Decoder} {k : Nat} (h : r.Collected c)
    (hcollect : r.d_phase = .collect) (hquiet : r.res_valid = false) (hcnt : r.d_cnt.toNat = k + 1) (h81 : k + 1 ≤ 81)
    (hstart : r.clearBurst.Reached c) : r.Reached c := by
  induction k generalizing r with
  | zero =>
    obtain ⟨lv, heq⟩ := Decoder.advance_of_first h hquiet (BitVec.eq_of_toNat_eq hcnt)
    exact heq ▸ hstart.advance hcollect (by simp) h.hi lv
  | succ k ih =>
    obtain ⟨r', lv, d, hfit, h', hcnt', hclear, heq⟩ := Decoder.hasPrevious h hquiet (by omega) (by omega)
    have hk : r'.d_cnt.toNat = k + 1 := by
      rw [hcnt']
      bv_omega
    have hcollect' : r'.d_phase = .collect := (congrArg Decoder.d_phase hclear).trans hcollect
    have hquiet' : r'.res_valid = false := (congrArg Decoder.res_valid hclear).trans hquiet
    have hnotlast : r'.d_cnt ≠ 81 := fun h81 => by
      have := Decoder.cnt_eq_81_iff.1 h81
      omega
    exact heq ▸ (ih h' hcollect' hquiet' hk (by omega) (hclear ▸ hstart)).advance hcollect' hnotlast hfit lv

/-- The 82nd pulse completes such a burst. -/
theorem Decoder.reached_complete {c : Cfg} {r : Decoder} (h : r.Collected c) (hcollect : r.d_phase = .collect)
    (hquiet : r.res_valid = false) (hcnt : r.d_cnt = 82) (hstart : r.clearBurst.Reached c) : r.complete.Reached c := by
  have hcnt82 : r.d_cnt.toNat = 82 := congrArg BitVec.toNat hcnt
  obtain ⟨r', lv, d, hfit, h', hcnt', hclear, heq⟩ := Decoder.hasPrevious h hquiet (by omega) (by omega)
  have hlast : r'.d_cnt = 81 := by
    rw [hcnt', hcnt]
    rfl
  have hcollect' : r'.d_phase = .collect := (congrArg Decoder.d_phase hclear).trans hcollect
  have hquiet' : r'.res_valid = false := (congrArg Decoder.res_valid hclear).trans hquiet
  have hcnt81 : r'.d_cnt.toNat = 80 + 1 := congrArg BitVec.toNat hlast
  have hreached := Decoder.reached_of_collected h' hcollect' hquiet' hcnt81 le_rfl (hclear ▸ hstart)
  have hpulse := hreached.pulse hfit lv
  rwa [Decoder.pulse_of_last hcollect' hlast, heq] at hpulse

/-! ## Every result is reached (R165, R171) -/

/-- The registers of a first burst of 82 pulses. -/
def Decoder.fullBurst (hi : Nat) (acc : Code40) (err : DErr) (eidx : BitVec 6) (lvl : Bool) : Decoder :=
  { Decoder.reset with d_cnt := 82, d_hi := hi, d_acc := acc, d_err := err, d_eidx := eidx, d_lvl := lvl }

theorem Decoder.fullBurst_d_cnt_toNat (hi : Nat) (acc : Code40) (err : DErr) (eidx : BitVec 6) (lvl : Bool) :
    (Decoder.fullBurst hi acc err eidx lvl).d_cnt.toNat = 82 := rfl

theorem Decoder.reached_complete_fullBurst {c : Cfg} {hi : Nat} {acc : Code40} {err : DErr} {eidx : BitVec 6}
    {lvl : Bool} (h : (Decoder.fullBurst hi acc err eidx lvl).Collected c) :
    (Decoder.fullBurst hi acc err eidx lvl).complete.Reached c :=
  Decoder.reached_complete h rfl rfl rfl (Decoder.reached_reset c)

/-- Each result that is possible is that of some full burst (R165). -/
theorem Decoder.exists_fullBurst {c : Cfg} {r : Decoder} (hcheck : r.check c = none) (hdrain : r.d_phase = .drain)
    (lvl : Bool) :
    ∃ hi acc err, (Decoder.fullBurst hi acc err r.res_idx lvl).Collected c ∧ err.resKind = r.res_kind ∧
      (r.res_kind = .ok → acc = join40 r.res_pilot r.res_roller r.res_cbyte) := by
  obtain ⟨-, -, -, -, -, -, -, hidx, hidx39, -, hfull, -, hpossible⟩ := Decoder.check_eq_none.1 hcheck
  rw [Decoder.resultPossible] at hpossible
  rcases hfull hdrain with hkind | hkind | hkind <;> rw [hkind] at hpossible hidx ⊢
  · obtain ⟨hsync, hcarries⟩ := Bool.and_eq_true_iff.1 hpossible
    obtain ⟨hi, hfit, hlow⟩ := exists_high (seesWindows_bit c _) (somePair_of_carries hcarries (by decide))
    refine ⟨hi, _, .none, Decoder.collected_of_clean rfl hfit ?_, rfl, fun _ => rfl⟩
    rw [Decoder.cleanBurst_iff, Decoder.fullBurst_d_cnt_toNat]
    exact ⟨hidx nofun, hcarries, fun _ => hsync, nofun, fun _ _ => hlow⟩
  · obtain ⟨hi, hfit, -⟩ := exists_high (seesWindows_noSync c) hpossible
    refine ⟨hi, 0, .sync, Decoder.collected_of_syncFailed rfl hfit ?_, rfl, nofun⟩
    rw [Decoder.syncFailed_iff, Decoder.fullBurst_d_cnt_toNat]
    exact ⟨hidx nofun, rfl, by decide, hpossible, nofun⟩
  · obtain ⟨hpairs, hbits⟩ := Bool.and_eq_true_iff.1 hpossible
    obtain ⟨hsync, hinvalid⟩ := Bool.and_eq_true_iff.1 hpairs
    obtain ⟨hi, hfit, hlow⟩ := exists_high (seesWindows_bit c _) hinvalid
    obtain ⟨acc, hcarries⟩ : ∃ acc, carries c r.res_idx.toNat acc = true := by
      refine exists_carries (by omega) ?_
      rw [Bool.or_eq_true, Bool.or_eq_true, beq_iff_eq, or_assoc] at hbits
      exact hbits.imp_left (congrArg BitVec.toNat)
    refine ⟨hi, acc, .bit, Decoder.collected_of_bitFailed rfl hfit hidx39 ?_, rfl, nofun⟩
    rw [Decoder.bitFailed_iff, Decoder.fullBurst_d_cnt_toNat]
    have h82 : 2 * r.res_idx.toNat + 4 ≤ 82 := by omega
    exact ⟨h82, hcarries, hsync, hinvalid, fun _ => hlow⟩

/-- A decoder with no pulse taken in holds nothing of a burst (R27, R169). -/
theorem Decoder.clearBurst_of_check {c : Cfg} {r : Decoder} (hcheck : r.check c = none) (hcnt : r.d_cnt = 0) :
    r.clearBurst = r := by
  obtain ⟨-, -, -, -, ⟨-, hclear, -⟩, -⟩ := Decoder.check_eq_none.1 hcheck
  obtain ⟨hhi, hacc, herr, heidx, hlvl⟩ := hclear hcnt
  rw [Decoder.clearBurst, ← hcnt, ← hhi, ← hacc, ← herr, ← heidx, ← hlvl]

theorem Decoder.publish_result (k : ResKind) (i : BitVec 6) (a : Code40) (l : Bool) (r : Decoder) :
    (r.publish k i a l).result =
      ⟨k, if k = .bitError then i else 0, if k = .ok then pilotOf a else 0, if k = .ok then rollerOf a else 0,
        if k = .ok then cbyteOf a else 0, if k = .ok then commandFromByte (cbyteOf a) else .unknown, l⟩ := by
  cases k <;> rfl

/-- A sound result is one that a publication of its kind makes (R169). -/
theorem Decoder.publish_result_eq {c : Cfg} {r : Decoder} {acc : Code40} (hcheck : r.check c = none)
    (hacc : r.res_kind = .ok → acc = join40 r.res_pilot r.res_roller r.res_cbyte) (r₀ : Decoder) :
    (r₀.publish r.res_kind r.res_idx acc r.res_lvlerr).result = r.result := by
  obtain ⟨-, -, -, -, -, hframe, hcmd, hidx, -⟩ := Decoder.check_eq_none.1 hcheck
  have hidx' : (if r.res_kind = .bitError then r.res_idx else 0) = r.res_idx := by
    split
    next => rfl
    next hbit => exact (hidx hbit).symm
  rw [Decoder.publish_result, hidx', Decoder.result]
  by_cases hok : r.res_kind = .ok
  · simp only [if_pos hok, hacc hok, pilotOf_join40, rollerOf_join40, cbyteOf_join40, hcmd]
  · obtain ⟨hpilot, hroller, hcbyte⟩ := hframe hok
    have hunknown : r.res_cmd = .unknown := by
      rw [hcmd, hcbyte]
      decide
    simp only [if_neg hok, hpilot, hroller, hcbyte, hunknown]

/-- The registers with no pulse taken in are known from the phase, the strobe and the result. -/
theorem Decoder.eq_of_result {c : Cfg} {r r' : Decoder} (hcheck : r.check c = none) (hcnt : r.d_cnt = 0)
    (hvalid : r'.res_valid = r.res_valid) (hresult : r'.result = r.result) :
    { r'.clearBurst with d_phase := r.d_phase } = r := by
  simp only [Decoder.result, Result.mk.injEq] at hresult
  obtain ⟨hkind, hidx, hpilot, hroller, hcbyte, hcmd, hlvlerr⟩ := hresult
  rw [← Decoder.clearBurst_of_check hcheck hcnt]
  simp only [Decoder.clearBurst, hvalid, hkind, hidx, hpilot, hroller, hcbyte, hcmd, hlvlerr]

/-- Just after a publication the registers are those it leaves. -/
theorem Decoder.publish_clearBurst_eq {c : Cfg} {r : Decoder} {acc : Code40} (hcheck : r.check c = none)
    (hcnt : r.d_cnt = 0) (hvalid : r.res_valid = true)
    (hacc : r.res_kind = .ok → acc = join40 r.res_pilot r.res_roller r.res_cbyte) (r₀ : Decoder) :
    { (r₀.publish r.res_kind r.res_idx acc r.res_lvlerr).clearBurst with d_phase := r.d_phase } = r :=
  Decoder.eq_of_result hcheck hcnt ((Decoder.publish_res_valid ..).trans hvalid.symm)
    (Decoder.publish_result_eq hcheck hacc r₀)

/-- A decoder that has just published, in `DRAIN`: the 82nd pulse of a burst with that result (R165). -/
theorem Decoder.reached_of_drain_strobe {c : Cfg} {r : Decoder} (hcheck : r.check c = none)
    (hdrain : r.d_phase = .drain) (hvalid : r.res_valid = true) : r.Reached c := by
  obtain ⟨-, -, -, -, ⟨hempty, -⟩, -⟩ := Decoder.check_eq_none.1 hcheck
  obtain ⟨hi, acc, err, hfull, hkind, hacc⟩ := Decoder.exists_fullBurst hcheck hdrain r.res_lvlerr
  have hreached := Decoder.reached_complete_fullBurst hfull
  have heq := Decoder.publish_clearBurst_eq hcheck (hempty hdrain) hvalid hacc
    (Decoder.fullBurst hi acc err r.res_idx r.res_lvlerr)
  rw [← hkind, hdrain] at heq
  exact heq ▸ hreached

/-- Some burst of one pulse has the level violation given (R168). -/
theorem Decoder.exists_reached_d_lvl (c : Cfg) (b : Bool) :
    ∃ r : Decoder, r.Reached c ∧ r.d_phase = .collect ∧ r.d_lvl = b := by
  obtain ⟨lv, hlv⟩ := Decoder.exists_lvlAfter (r := Decoder.reset) rfl b
  have hfit : c.fitsDur 0 = true := Cfg.fitsDur_iff.2 (Nat.two_pow_pos _)
  exact ⟨_, (Decoder.reached_reset c).advance rfl (by decide) hfit lv, rfl, hlv⟩

/-- A decoder that has just published `TOO_SHORT`: the END of a burst with that level violation (R171). -/
theorem Decoder.reached_of_tooShort_strobe {c : Cfg} {r : Decoder} (hcheck : r.check c = none)
    (hcollect : r.d_phase = .collect) (hcnt : r.d_cnt = 0) (hkind : r.res_kind = .tooShort)
    (hvalid : r.res_valid = true) : r.Reached c := by
  obtain ⟨-, -, -, -, -, -, -, hidx, -⟩ := Decoder.check_eq_none.1 hcheck
  obtain ⟨r₀, hreached, hcollect₀, hlvl⟩ := Decoder.exists_reached_d_lvl c r.res_lvlerr
  have heq := Decoder.publish_clearBurst_eq (acc := 0) hcheck hcnt hvalid (by simp [hkind]) r₀
  rw [hkind, hidx (by simp [hkind]), hcollect, ← hlvl, ← Decoder.endBurst_of_collect hcollect₀] at heq
  exact heq ▸ hreached.endBurst

/-- A decoder that has just published (R43). -/
theorem Decoder.reached_of_strobe {c : Cfg} {r : Decoder} (hcheck : r.check c = none) (hvalid : r.res_valid = true) :
    r.Reached c := by
  obtain ⟨-, -, -, -, -, -, -, -, -, -, -, hstrobe, -⟩ := Decoder.check_eq_none.1 hcheck
  cases hphase : r.d_phase with
  | drain => exact Decoder.reached_of_drain_strobe hcheck hphase hvalid
  | collect =>
    obtain ⟨hkind, hcnt⟩ := (hstrobe hvalid).resolve_left (by simp [hphase])
    exact Decoder.reached_of_tooShort_strobe hcheck hphase hcnt hkind hvalid

/-- A decoder that has published and taken no token since. -/
theorem Decoder.reached_of_published {c : Cfg} {r : Decoder} (hcheck : r.check c = none)
    (hpublished : r.d_phase = .drain ∨ r.res_kind = .tooShort ∧ r.d_cnt = 0) : r.Reached c := by
  cases hvalid : r.res_valid with
  | true => exact Decoder.reached_of_strobe hcheck hvalid
  | false =>
    obtain ⟨herr, hcnt, heidx, hkind, hburst, hframe, hcmd, hidx, hidx39, hlvl, hfull, -, hpossible⟩ :=
      Decoder.check_eq_none.1 hcheck
    have hbefore : ({ r with res_valid := true } : Decoder).check c = none := Decoder.check_eq_none.2
      ⟨herr, hcnt, heidx, hkind, hburst, hframe, hcmd, hidx, hidx39, hlvl, hfull, fun _ => hpublished, hpossible⟩
    have hreached := (Decoder.reached_of_strobe hbefore rfl).idle
    rwa [Decoder.idle, ← hvalid] at hreached

/-- A decoder in `COLLECT`, no pulse taken in, whose last burst was a full one: its END came in `DRAIN` (R171). -/
theorem Decoder.reached_of_full_result {c : Cfg} {r : Decoder} (hcheck : r.check c = none)
    (hcollect : r.d_phase = .collect) (hcnt : r.d_cnt = 0) (hquiet : r.res_valid = false)
    (hkind : r.res_kind = .ok ∨ r.res_kind = .syncMismatch ∨ r.res_kind = .bitError) : r.Reached c := by
  obtain ⟨herr, h81, heidx, hcodes, ⟨-, hburst⟩, hframe, hcmd, hidx, hidx39, hlvl, -, -, hpossible⟩ :=
    Decoder.check_eq_none.1 hcheck
  have hbefore : ({ r with d_phase := .drain } : Decoder).check c = none := Decoder.check_eq_none.2
    ⟨herr, h81, heidx, hcodes, ⟨fun _ => hcnt, hburst⟩, hframe, hcmd, hidx, hidx39, hlvl, fun _ => hkind,
      fun _ => .inl rfl, hpossible⟩
  have hreached := (Decoder.reached_of_published hbefore (.inl rfl)).endBurst
  have heq := Decoder.eq_of_result (r' := ({ r with d_phase := .drain } : Decoder).idle) hcheck hcnt hquiet.symm rfl
  rw [hcollect] at heq
  rwa [Decoder.endBurst_of_drain rfl, heq] at hreached

/-- A decoder in `COLLECT` with no pulse taken in, for each result it can hold. -/
theorem Decoder.reached_of_start {c : Cfg} {r : Decoder} (hcheck : r.check c = none) (hcollect : r.d_phase = .collect)
    (hcnt : r.d_cnt = 0) : r.Reached c := by
  cases hvalid : r.res_valid with
  | true => exact Decoder.reached_of_strobe hcheck hvalid
  | false =>
    obtain ⟨-, -, -, ⟨h5, h6, h7⟩, -, hframe, hcmd, hidx, -, hlvl, -⟩ := Decoder.check_eq_none.1 hcheck
    cases hkind : r.res_kind with
    | none =>
      obtain ⟨hpilot, hroller, hcbyte⟩ := hframe (by simp [hkind])
      have hblank : Decoder.reset.result = r.result := by
        rw [Decoder.result, Decoder.result, hkind, hidx (by simp [hkind]), hpilot, hroller, hcmd, hcbyte, hlvl hkind]
        rfl
      have heq := Decoder.eq_of_result hcheck hcnt hvalid.symm hblank
      rw [hcollect] at heq
      exact heq ▸ Decoder.reached_reset c
    | tooShort => exact Decoder.reached_of_published hcheck (.inr ⟨hkind, hcnt⟩)
    | ok | syncMismatch | bitError =>
      exact Decoder.reached_of_full_result hcheck hcollect hcnt hvalid (by simp [hkind])
    | code5 => exact absurd hkind h5
    | code6 => exact absurd hkind h6
    | code7 => exact absurd hkind h7

/-- Every decoder that may step is reached from reset. -/
theorem Decoder.reached_of_check {c : Cfg} {r : Decoder} (hcheck : r.check c = none) : r.Reached c := by
  obtain ⟨-, h81, -, hcodes, ⟨hempty, -⟩, hresult⟩ := Decoder.check_eq_none.1 hcheck
  cases hphase : r.d_phase with
  | drain => exact Decoder.reached_of_published hcheck (.inl hphase)
  | collect =>
    by_cases hcnt : r.d_cnt = 0
    · exact Decoder.reached_of_start hcheck hphase hcnt
    · obtain ⟨k, hk⟩ := Nat.exists_eq_succ_of_ne_zero fun h0 => hcnt (BitVec.eq_of_toNat_eq h0)
      have hquiet : r.res_valid = false := by
        obtain ⟨-, -, -, -, -, -, hstrobe, -⟩ := hresult
        exact eq_false_of_ne_true fun hvalid => (hstrobe hvalid).elim (by simp [hphase]) fun h => hcnt h.2
      have hsound := Decoder.resultSound_of_result (r' := r.clearBurst) hresult rfl hphase hquiet
      have hstart : r.clearBurst.check c = none := Decoder.check_eq_none.2
        ⟨nofun, Nat.zero_le _, Nat.zero_le _, hcodes, Decoder.clearBurst_burstSound c r r.d_phase, hsound⟩
      exact Decoder.reached_of_collected (Decoder.collected_of_check hcheck) hphase hquiet hk (by omega)
        (Decoder.reached_of_start hstart hphase rfl)

end Sys2Proof.Machine

/-! PROOFS. The family `60_exceptions`: the registers of every sound encoder are reached from reset, and those of both
agents together (R48, R314). The agents share no register (R70), so that the two lists of inputs run side by side. -/

namespace Sys2Proof.Machine

/-! ## Where the inputs of several cycles lead the encoder -/

/-- The registers after one cycle without reset for each of these inputs. -/
def Encoder.after (c : Cfg) (ps : List Ports) (e : Encoder) : Encoder := ps.foldl (fun e p => e.turn c p) e

/-- Some inputs lead the encoder from reset to these registers. -/
def Encoder.Reached (c : Cfg) (e : Encoder) : Prop := ∃ ps, Encoder.reset.after c ps = e

theorem Encoder.reached_reset (c : Cfg) : Encoder.reset.Reached c := ⟨[], rfl⟩

theorem Encoder.Reached.turn {c : Cfg} {e : Encoder} (h : e.Reached c) (p : Ports) : (e.turn c p).Reached c := by
  obtain ⟨ps, rfl⟩ := h
  exact ⟨ps ++ [p], List.foldl_concat ..⟩

theorem Encoder.Reached.idle {c : Cfg} {e : Encoder} (h : e.Reached c) : e.idle.Reached c :=
  Encoder.turn_quiet (c := c) (p := Ports.idle) rfl rfl e ▸ h.turn Ports.idle

theorem Encoder.Reached.ack {c : Cfg} {e : Encoder} (h : e.Reached c) : e.ack.Reached c :=
  Encoder.turn_ack (c := c) (p := { Ports.idle with out_ready := true }) rfl rfl e ▸ h.turn _

theorem Encoder.Reached.request {c : Cfg} {e : Encoder} {n : Nat} (h : e.Reached c) (hidle : e.e_state = .idle)
    (hn : c.fitsRep n = true) (p : PilotId) (r : RollerId) (cmd : Command) : (e.request p r cmd n).Reached c := by
  have hword := decodeRequest_encodeRequest p r cmd (Cfg.fitsRep_iff.1 hn)
  have hturn := h.turn { Ports.idle with req_valid := true, req_word := encodeRequest p r cmd n }
  rwa [Encoder.turn_of_request hidle rfl hword] at hturn

/-! ## The elements of an encoding (R247, R250) -/

/-- A code with a known command byte is the one of some request (R246). -/
theorem Encoder.Reached.start {c : Cfg} {e : Encoder} {code : Code40} {n : Nat} (h : e.Reached c)
    (hidle : e.e_state = .idle) (hcode : commandFromByte (cbyteOf code) ≠ .unknown) (hn : n ≠ 0)
    (hfit : c.fitsRep n = true) : (e.start code n).Reached c := by
  obtain ⟨cb, hcb⟩ := exists_byteFromCommand hcode
  have hbyte : cb = cbyteOf code := by
    rw [byteFromCommand_commandFromByte] at hcb
    split at hcb <;> cases hcb
    rfl
  have hrequest := h.request hidle hfit (pilotOf code) (rollerOf code) (commandFromByte (cbyteOf code))
  rwa [Encoder.request_of_ok hidle hcb hn, hbyte, join40_fields] at hrequest

/-- The encoder at another element of the repetition it is in. -/
def Encoder.atElement (state : EState) (bit : BitVec 6) (e : Encoder) : Encoder :=
  { e.idle with e_state := state, e_bit := bit }

theorem Encoder.ack_atElement_bitL_of_lt {bit : BitVec 6} (h : bit < 39) (e : Encoder) :
    (e.atElement .bitL bit).ack = e.atElement .bitH (bit + 1) := if_pos h

theorem Encoder.ack_atElement_bitL_39 {e : Encoder} (h : 1 < e.e_rep) :
    (e.atElement .bitL 39).ack = e.atElement .gap 39 := if_pos h

/-- The bit pairs follow the sync pair in order, two handshakes each (R247). -/
theorem Encoder.Reached.atElement_bitH {c : Cfg} {e : Encoder} (h : (e.atElement .syncH 0).Reached c) {i : Nat}
    (hi : i ≤ 39) : (e.atElement .bitH (BitVec.ofNat 6 i)).Reached c := by
  induction i with
  | zero => exact h.ack.ack
  | succ i ih =>
    have hlt : BitVec.ofNat 6 i < 39 := by
      rw [BitVec.lt_def, BitVec.toNat_ofNat, Nat.mod_eq_of_lt (by omega)]
      exact hi
    have hsum : BitVec.ofNat 6 (i + 1) = BitVec.ofNat 6 i + 1 := BitVec.ofNat_add i 1
    rw [hsum, ← Encoder.ack_atElement_bitL_of_lt hlt]
    exact (ih (by omega)).ack.ack

/-- Every element is reached from the sync pulse of its repetition, one handshake for each element between. -/
theorem Encoder.reached_of_syncH {c : Cfg} {e : Encoder} (hcheck : e.check c = none) (hrun : e.e_state ≠ .idle)
    (h : (e.atElement .syncH 0).Reached c) : e.Reached c := by
  obtain ⟨⟨h6, h7⟩, hbit, -, -, hsync, hgap, -⟩ := Encoder.check_eq_none.1 hcheck
  have heq : e.atElement e.e_state e.e_bit = e := by
    rw [Encoder.atElement, Encoder.idle, ← Encoder.done_of_running hcheck hrun]
  have hbitH := h.atElement_bitH hbit
  rw [BitVec.ofNat_toNat, BitVec.setWidth_eq] at hbitH
  rw [← heq]
  cases hst : e.e_state with
  | idle => exact absurd hst hrun
  | code6 => exact absurd hst h6
  | code7 => exact absurd hst h7
  | syncH => exact hsync (.inl hst) ▸ h
  | syncL => exact hsync (.inr hst) ▸ h.ack
  | bitH => exact hbitH
  | bitL => exact hbitH.ack
  | gap =>
    obtain ⟨h39, hrep⟩ := hgap hst
    rw [h39] at hbitH ⊢
    exact Encoder.ack_atElement_bitL_39 hrep ▸ hbitH.ack.ack

theorem Encoder.Reached.iterate_ack {c : Cfg} {e : Encoder} (h : e.Reached c) (j : Nat) :
    (Encoder.ack^[j] e).Reached c := by
  induction j with
  | zero => exact h
  | succ j ih =>
    rw [Function.iterate_succ_apply']
    exact ih.ack

/-! ## The endings (R249) -/

/-- One repetition of any code with a known command byte, from the first element to the last. -/
theorem Encoder.reached_ok {c : Cfg} {code : Code40} (hcode : commandFromByte (cbyteOf code) ≠ .unknown)
    (hfit : c.fitsRep 1 = true) : Encoder.Reached c ⟨.idle, code, 0, 0, true, .ok⟩ := by
  have hstart := (Encoder.reached_reset c).start rfl hcode one_ne_zero hfit
  have hend := Encoder.iterate_ack_elementsLeft (Encoder.start_check hcode one_ne_zero hfit Encoder.reset) nofun
  exact hend ▸ hstart.iterate_ack _

/-- Both rejections are reached wherever requests are taken (R242). -/
theorem Encoder.Reached.finish {c : Cfg} {e : Encoder} {code : EncCode} (h : e.Reached c) (hidle : e.e_state = .idle)
    (hfailed : code = .unknownCommand ∨ code = .badRepeat) : (e.finish code).Reached c := by
  have hfit : c.fitsRep 0 = true := Cfg.fitsRep_iff.2 (Nat.two_pow_pos _)
  rcases hfailed with rfl | rfl
  · exact Encoder.request_of_error hidle byteFromCommand_unknown 0 0 0 ▸ h.request hidle hfit 0 0 .unknown
  · exact Encoder.request_zero (cmd := .up) hidle rfl 0 0 ▸ h.request hidle hfit 0 0 .up

/-- In `IDLE` only the code and the two status registers tell encoders apart (R36, R250). -/
theorem Encoder.eq_of_idle {c : Cfg} {e : Encoder} (hcheck : e.check c = none) (hidle : e.e_state = .idle) :
    e = ⟨.idle, e.e_code, 0, 0, e.enc_done, e.enc_code⟩ := by
  obtain ⟨-, -, -, hclear, -⟩ := Encoder.check_eq_none.1 hcheck
  obtain ⟨hbit, hrep, -⟩ := hclear hidle
  rw [← hidle, ← hbit, ← hrep]

theorem EncCode.ok_or_failed {x : EncCode} (h : x ≠ .none) : x = .ok ∨ x = .unknownCommand ∨ x = .badRepeat := by
  cases x with
  | none => exact absurd rfl h
  | ok => exact .inl rfl
  | unknownCommand => exact .inr (.inl rfl)
  | badRepeat => exact .inr (.inr rfl)

/-- An encoder that has just reported an ending (R44): of an encoding, or of a request rejected after the encoding whose
code it still holds, or after reset. -/
theorem Encoder.reached_of_done {c : Cfg} {e : Encoder} (hcheck : e.check c = none) (hdone : e.enc_done = true) :
    e.Reached c := by
  obtain ⟨-, -, -, hclear, -, -, -, hcode, hstrobe⟩ := Encoder.check_eq_none.1 hcheck
  obtain ⟨hidle, hnone⟩ := hstrobe hdone
  obtain ⟨-, -, hsent⟩ := hclear hidle
  rw [Encoder.eq_of_idle hcheck hidle, hdone]
  by_cases hzero : e.e_code = 0
  · rw [if_pos hzero] at hsent
    have hfailed := (EncCode.ok_or_failed hnone).resolve_left hsent
    rw [hzero]
    exact (Encoder.reached_reset c).finish rfl hfailed
  · rw [if_neg hzero] at hsent
    have hok := Encoder.reached_ok (hcode hzero) hsent.2
    rcases EncCode.ok_or_failed hnone with henc | hfailed
    · rwa [henc]
    · exact hok.finish rfl hfailed

/-- An encoder in `IDLE`: the strobe can have stood one cycle earlier, or there was no request yet. -/
theorem Encoder.reached_of_idle {c : Cfg} {e : Encoder} (hcheck : e.check c = none) (hidle : e.e_state = .idle) :
    e.Reached c := by
  obtain ⟨hcodes, hbit, hfit, hclear, hsync, hgap, hbusy, hcode, -⟩ := Encoder.check_eq_none.1 hcheck
  cases hdone : e.enc_done with
  | true => exact Encoder.reached_of_done hcheck hdone
  | false =>
    by_cases hnone : e.enc_code = .none
    · obtain ⟨-, -, hsent⟩ := hclear hidle
      have hzero : e.e_code = 0 := by
        by_contra hzero
        rw [if_neg hzero] at hsent
        exact hsent.1 hnone
      rw [Encoder.eq_of_idle hcheck hidle, hzero, hdone, hnone]
      exact Encoder.reached_reset c
    · have hbefore : ({ e with enc_done := true } : Encoder).check c = none := Encoder.check_eq_none.2
        ⟨hcodes, hbit, hfit, hclear, hsync, hgap, hbusy, hcode, fun _ => ⟨hidle, hnone⟩⟩
      have hreached := (Encoder.reached_of_done hbefore rfl).idle
      rwa [Encoder.idle, ← hdone] at hreached

/-- Every way for the last request to have ended is reached, if one repetition can be sent (R44). -/
theorem Encoder.exists_reached_enc_code {c : Cfg} (hfit : c.fitsRep 1 = true) (x : EncCode) :
    ∃ e : Encoder, e.Reached c ∧ e.e_state = .idle ∧ e.enc_code = x := by
  by_cases hnone : x = .none
  · exact ⟨_, Encoder.reached_reset c, rfl, hnone.symm⟩
  · rcases EncCode.ok_or_failed hnone with hok | hfailed
    · exact ⟨_, Encoder.reached_ok (code := 0x11) (by decide) hfit, rfl, hok.symm⟩
    · exact ⟨_, (Encoder.reached_reset c).finish rfl hfailed, rfl, rfl⟩

/-- Every encoder that may step is reached from reset. -/
theorem Encoder.reached_of_check {c : Cfg} {e : Encoder} (hcheck : e.check c = none) : e.Reached c := by
  by_cases hidle : e.e_state = .idle
  · exact Encoder.reached_of_idle hcheck hidle
  · obtain ⟨-, -, hfit, -, -, -, hbusy, hcode, -⟩ := Encoder.check_eq_none.1 hcheck
    obtain ⟨hrep, hsent⟩ := hbusy hidle
    have hone : c.fitsRep 1 = true :=
      Cfg.fitsRep_iff.2 ((Nat.one_le_iff_ne_zero.2 hrep).trans_lt (Cfg.fitsRep_iff.1 hfit))
    obtain ⟨e₀, hreached, hidle₀, henc⟩ := Encoder.exists_reached_enc_code hone e.enc_code
    have hstart : e₀.start e.e_code e.e_rep = e.atElement .syncH 0 := by
      rw [Encoder.start, Encoder.idle, henc]
      rfl
    exact Encoder.reached_of_syncH hcheck hidle (hstart ▸ hreached.start hidle₀ (hcode hsent) hrep hfit)

/-! ## Both agents at once (R70, R303) -/

/-- The inputs of one cycle without reset that gives the decoder what `p` offers it and the encoder what `q` does. -/
def Ports.merge (p q : Ports) : Ports :=
  { rst := false, in_valid := p.in_valid, in_word := p.in_word
    req_valid := q.req_valid, req_word := q.req_word, out_ready := q.out_ready }

/-- Cycle by cycle. -/
def Ports.mergeAll (ps qs : List Ports) : List Ports := (ps.zip qs).map fun x => x.1.merge x.2

theorem Decoder.after_mergeAll {c : Cfg} {ps qs : List Ports} (h : ps.length = qs.length) (r : Decoder) :
    r.after c (Ports.mergeAll ps qs) = r.after c ps := by
  calc r.after c (Ports.mergeAll ps qs)
    _ = (ps.zip qs).foldl (fun r x => r.turn c (x.1.merge x.2)) r := List.foldl_map
    _ = (ps.zip qs).foldl (fun r x => r.turn c x.1) r := rfl
    _ = ((ps.zip qs).map Prod.fst).foldl (fun r p => r.turn c p) r := by rw [List.foldl_map]
    _ = r.after c ps := by rw [List.map_fst_zip h.le, Decoder.after]

theorem Encoder.after_mergeAll {c : Cfg} {ps qs : List Ports} (h : ps.length = qs.length) (e : Encoder) :
    e.after c (Ports.mergeAll ps qs) = e.after c qs := by
  calc e.after c (Ports.mergeAll ps qs)
    _ = (ps.zip qs).foldl (fun e x => e.turn c (x.1.merge x.2)) e := List.foldl_map
    _ = (ps.zip qs).foldl (fun e x => e.turn c x.2) e := rfl
    _ = ((ps.zip qs).map Prod.snd).foldl (fun e p => e.turn c p) e := by rw [List.foldl_map]
    _ = e.after c qs := by rw [List.map_snd_zip h.ge, Encoder.after]

/-- Cycles without a transaction leave an agent as reset does (R172, R248), so that it can start later. -/
theorem Decoder.after_idle_append (c : Cfg) (k : Nat) (ps : List Ports) :
    Decoder.reset.after c (List.replicate k Ports.idle ++ ps) = Decoder.reset.after c ps := by
  induction k with
  | zero => rfl
  | succ k ih => exact ih

theorem Encoder.after_idle_append (c : Cfg) (k : Nat) (ps : List Ports) :
    Encoder.reset.after c (List.replicate k Ports.idle ++ ps) = Encoder.reset.after c ps := by
  induction k with
  | zero => rfl
  | succ k ih => exact ih

/-- What each agent reaches on its own, both reach together. -/
theorem exists_inputs_of_reached {c : Cfg} {r : Decoder} {e : Encoder} (hdec : r.Reached c) (henc : e.Reached c) :
    ∃ ps : List Ports, (∀ p ∈ ps, p.rst = false) ∧ Decoder.reset.after c ps = r ∧ Encoder.reset.after c ps = e := by
  obtain ⟨ps, rfl⟩ := hdec
  obtain ⟨qs, rfl⟩ := henc
  have hlength : (List.replicate qs.length Ports.idle ++ ps).length =
      (List.replicate ps.length Ports.idle ++ qs).length := by
    simp only [List.length_append, List.length_replicate, Nat.add_comm]
  refine ⟨Ports.mergeAll (List.replicate qs.length Ports.idle ++ ps) (List.replicate ps.length Ports.idle ++ qs),
    fun p hp => ?_, ?_, ?_⟩
  · obtain ⟨x, -, rfl⟩ := List.mem_map.1 hp
    rfl
  · rw [Decoder.after_mergeAll hlength, Decoder.after_idle_append]
  · rw [Encoder.after_mergeAll hlength, Encoder.after_idle_append]

/-- A sound state runs any number of cycles without reset, in which each agent takes its turns. -/
theorem run_cycles {s : State} {ps : List Ports} (hsound : s.Sound) (hrst : ∀ p ∈ ps, p.rst = false)
    (hs : s.pending = ps.map .cycle) :
    ∃ t, Sys2Proof.core.run ps.length s = .next t ∧ t.dec = s.dec.after s.cfg ps ∧ t.enc = s.enc.after s.cfg ps := by
  induction ps generalizing s with
  | nil => exact ⟨s, rfl, rfl, rfl⟩
  | cons p ps ih =>
    have hstep := step_cycle hs (hrst p List.mem_cons_self) hsound.1 hsound.2
    rw [List.length_cons, Laws.run_succ _ hstep]
    exact ih ⟨Decoder.turn_check hsound.1 p, Encoder.turn_check hsound.2 p⟩
      (fun q hq => hrst q (List.mem_cons_of_mem _ hq)) rfl

/-- Settles O7: each agent's registers are reached on their own, and the inputs that lead there run side by side. -/
theorem soundStatesAreReached : Obligations.SoundStatesAreReached := by
  intro s ⟨hdec, henc⟩
  obtain ⟨ps, hrst, hdec', henc'⟩ :=
    exists_inputs_of_reached (Decoder.reached_of_check hdec) (Encoder.reached_of_check henc)
  have hreset : ({ State.resetWith s.cfg with pending := ps.map .cycle } : State).Sound :=
    ⟨Decoder.reset_check s.cfg, Encoder.reset_check s.cfg⟩
  obtain ⟨t, hrun, htdec, htenc⟩ := run_cycles hreset hrst rfl
  exact ⟨ps, t, hrun, htdec.trans hdec', htenc.trans henc'⟩

end Sys2Proof.Machine

/-! PROOFS. The family `70_reset_and_hazards`: a cycle with `rst = 1` (R340, R47). -/

namespace Sys2Proof.Machine

/-- A cycle with reset is `RESET` and nothing else: no other input of it is looked at. -/
theorem step_eq_exec_reset {s : State} {p : Ports} {rest : List Stimulus} (hs : s.pending = .cycle p :: rest)
    (hp : p.rst = true) : step s = exec .reset { s with pending := rest } := by
  simp only [step, hs, respond, clockEdge, if_pos hp]

theorem exec_reset (s : State) : exec .reset s = .next { s with dec := Decoder.reset, enc := Encoder.reset } := rfl

@[simp] theorem Encoder.reset_reqReady : Encoder.reset.reqReady = true := Encoder.reqReady_iff.2 rfl

@[simp] theorem Encoder.reset_outValid : Encoder.reset.outValid = false := rfl

/-- Settles O1: the step is `RESET`, whose registers are the literals of `Decoder.reset` and `Encoder.reset`. -/
theorem resetOverridesEveryInput : Obligations.ResetOverridesEveryInput := by
  intro s p rest _ hp hs
  have hexec := exec_reset { s with pending := rest }
  exact ⟨_, (step_eq_exec_reset hs hp).trans hexec, hexec, rfl, rfl, Encoder.reset_reqReady, Encoder.reset_outValid⟩

end Sys2Proof.Machine

/-! PROOFS. The family `other`: soundness is an invariant of the machine (R48, R314): it holds after reset, and every
step from a sound state answers a next state and keeps it. -/

namespace Sys2Proof.Machine

/-- What a step that answers leaves is sound: it is the one state that `step_of_sound` says the step answers. -/
theorem State.Sound.of_step {s t : State} (h : s.Sound) (hstep : step s = .next t) : t.Sound := by
  obtain ⟨t', hstep', ht'⟩ := step_of_sound h
  cases hstep.symm.trans hstep'
  exact ht'

/-- Settles O4: the turn of each agent keeps that agent's check. -/
theorem stepKeepsSound : Obligations.StepKeepsSound := fun _ _ => State.Sound.of_step

/-- Settles O5: of what `step_of_sound` gives, the next state alone. -/
theorem soundStateSteps : Obligations.SoundStateSteps := by
  intro s hsound
  obtain ⟨t, hstep, -⟩ := step_of_sound hsound
  exact ⟨t, hstep⟩

/-- Settles O2: `RESET` looks at no register, and a cycle with `rst = 1` is `RESET` once its inputs are taken. -/
theorem resetCompletes : Obligations.ResetCompletes := by
  intro s
  refine ⟨exec_reset s, fun p rest hp hs => ?_⟩
  exact (step_eq_exec_reset hs hp).trans (exec_reset { s with pending := rest })

/-- Settles O3: each agent's reset values pass its check, whatever the windows. -/
theorem resetStateIsSound : Obligations.ResetStateIsSound :=
  fun c => ⟨Decoder.reset_check c, Encoder.reset_check c⟩

end Sys2Proof.Machine
